-- ==== Sys2Proof/Word.lean ====
section
/-! DEFINITION. The unit's two word types: every register and footer field is a u32 (R6), buffer memory is bytes (R80). -/

namespace Sys2Proof

/-- A byte of buffer memory (R12). -/
abbrev Byte := BitVec 8

/-- A u32: a register, a footer field, a command word (R6, R12). -/
abbrev Word := BitVec 32

end Sys2Proof
end

