-- ==== Sys2Proof/Syntax.lean ====
section
/-! DEFINITION. The commands: one constructor for each row of spec/opcode_table.json (R110, R113, R114). Commands have no
operand fields (R112); the three rows of illegal words carry the bits their row leaves free. -/

namespace Sys2Proof

/-- A command of the unit. -/
inductive Instr where
  /-- NOP, word 0x00000000 (R210). -/
  | nop
  /-- PARSE, word 0x00000001 (R140). -/
  | parse
  /-- BUILD, word 0x00000002 (R143). -/
  | build
  /-- CRC, word 0x00000003 (R162). -/
  | crc
  /-- VSIZE, word 0x00000004 (R163). -/
  | vsize
  /-- VCRC, word 0x00000005 (R164). -/
  | vcrc
  /-- TYPECHK, word 0x00000006 (R180). -/
  | typechk
  /-- VDEC, word 0x00000007 (R181). -/
  | vdec
  /-- GATE, word 0x00000008 (R182). -/
  | gate
  /-- SEAL, word 0x00000009 (R200). -/
  | sealFooter
  /-- ILLEGAL, reserved opcodes 0xA and 0xB; `o` is bit 0 (R211). -/
  | illegalAB (o : BitVec 1)
  /-- ILLEGAL, reserved opcodes 0xC to 0xF; `o` is bits 1:0 (R211). -/
  | illegalCF (o : BitVec 2)
  /-- ILLEGAL, every word whose bits 31:4 (`z`) are not 0, whatever bits 3:0 (`op`) are (R111, R211). -/
  | illegalZ (z : BitVec 28) (op : BitVec 4)
deriving DecidableEq, Repr

end Sys2Proof
end

