-- ==== Sys2Proof/WellFormed.lean ====
section
/-! DEFINITION. Which terms of Instr stand for a command word: the only term shape that can be ill formed is `illegalZ`
with all reserved bits 0, whose word belongs to another row (R111). -/

namespace Sys2Proof

/-- The instruction is the reading of some command word (R111). -/
def Instr.wf : Instr → Bool
  | .nop | .parse | .build | .crc | .vsize | .vcrc | .typechk | .vdec | .gate | .sealFooter => true
  | .illegalAB _ | .illegalCF _ => true
  | .illegalZ z _ => z != 0

end Sys2Proof
end

