-- ==== Sys2Proof/Decode.lean ====
section
/-! DEFINITION. Decoding a command word (R110, R111, R113, R114), total on every u32, and the encoder. -/

namespace Sys2Proof

/-- The opcode map on bits 3:0 of a word whose bits 31:4 are 0 (R113). -/
def opmap (op : BitVec 4) : Instr :=
  match op.toNat with
  | 0 => .nop
  | 1 => .parse
  | 2 => .build
  | 3 => .crc
  | 4 => .vsize
  | 5 => .vcrc
  | 6 => .typechk
  | 7 => .vdec
  | 8 => .gate
  | 9 => .sealFooter
  | 10 | 11 => .illegalAB (op.extractLsb' 0 1)
  | _ => .illegalCF (op.extractLsb' 0 2)

/-- R111: the reserved bits 31:4 are checked first, then the opcode map selects on bits 3:0. -/
def decodeWord (w : Word) : Instr :=
  if w.extractLsb' 4 28 ≠ 0 then .illegalZ (w.extractLsb' 4 28) (w.extractLsb' 0 4)
  else opmap (w.extractLsb' 0 4)

/-- Why a bit string is no command. -/
inductive DecodeReject where
  /-- A command is exactly one 32-bit word (R110): a longer bit string is none. -/
  | longerThanOneWord
deriving DecidableEq, Repr

/-- The command word that a bit string of at most 32 bits stands for, the missing high bits 0. -/
def wordOfBits (nbits w : Nat) : Word := BitVec.ofNat 32 (w % 2 ^ nbits)

/-- Decoding of any bit string; every one of at most one word decodes (R111, R115). -/
def decodeBits (nbits w : Nat) : Except DecodeReject Instr :=
  if nbits ≤ 32 then .ok (decodeWord (wordOfBits nbits w)) else .error .longerThanOneWord

/-- The command word of an instruction, from the encodings of R113 and R114. -/
def encode : Instr → Word
  | .nop => 0x00000000#32
  | .parse => 0x00000001#32
  | .build => 0x00000002#32
  | .crc => 0x00000003#32
  | .vsize => 0x00000004#32
  | .vcrc => 0x00000005#32
  | .typechk => 0x00000006#32
  | .vdec => 0x00000007#32
  | .gate => 0x00000008#32
  | .sealFooter => 0x00000009#32
  | .illegalAB o => 0b101#31 ++ o
  | .illegalCF o => 0b11#30 ++ o
  | .illegalZ z op => z ++ op

/-- The opcode table's row of an instruction as a (mask, match) pair (spec/opcode_table.json); the row of the words with
nonzero reserved bits has mask 0 there and is told apart by `Instr.wf`. -/
def tableRow : Instr → Word × Word
  | .nop => (0xFFFFFFFF#32, 0x0#32)
  | .parse => (0xFFFFFFFF#32, 0x1#32)
  | .build => (0xFFFFFFFF#32, 0x2#32)
  | .crc => (0xFFFFFFFF#32, 0x3#32)
  | .vsize => (0xFFFFFFFF#32, 0x4#32)
  | .vcrc => (0xFFFFFFFF#32, 0x5#32)
  | .typechk => (0xFFFFFFFF#32, 0x6#32)
  | .vdec => (0xFFFFFFFF#32, 0x7#32)
  | .gate => (0xFFFFFFFF#32, 0x8#32)
  | .sealFooter => (0xFFFFFFFF#32, 0x9#32)
  | .illegalAB _ => (0xFFFFFFFE#32, 0xA#32)
  | .illegalCF _ => (0xFFFFFFFC#32, 0xC#32)
  | .illegalZ _ _ => (0x0#32, 0x0#32)

/-- The instruction the decoder reads from an opcode-table word; a command is one register-bus word, so the table's bit
numbering is the word's own (R89, R110). -/
def decodeTableWord (nbits w : Nat) : Option Instr :=
  match decodeBits nbits w with
  | .ok i => some i
  | .error _ => none

end Sys2Proof
end

