-- ==== Sys2Proof/Config.lean ====
section
/-! DEFINITION. What is fixed for this hardware (R7, R9) and what the spec leaves open (92_eei_decisions.md, OPEN
parameters; 93_implementation_defined.md): the free values are constants without a body. -/

namespace Sys2Proof.Config

/-- ADDR_W, the width of a buffer-memory byte address (R7). -/
abbrev addrW : Nat := 32

/-- The number of bytes of buffer memory, `2^ADDR_W` (R7, R80). -/
abbrev memSize : Nat := 2 ^ addrW

/-- FOOTER_LEN, the length of the footer in bytes (R9). -/
abbrev footerLen : Nat := 20

/-- The constants of a reflected 32-bit CRC, the arguments that CRC_VARIANT stands for (R8, R160; log entry 16):
the bit-reversed polynomial, the initial value and the final XOR. -/
structure CrcVariant where
  polyRev : Word
  init    : Word
  xorOut  : Word
deriving DecidableEq, Repr

/-- REG_BASE, the platform's base address of the register window (R94, I9). Register accesses are written as offsets
from it, so nothing the unit does depends on its value (log entry 9). -/
opaque regBase : Nat

/-- What a byte of buffer memory that nothing has written holds: any value, one for each address (R81, I5; log entry 2). -/
opaque powerUpByte : Nat → Byte

/-- The byte of the model's n-th draw, where the spec says "any byte" (R101, R261, I2, I4; log entry 6). -/
opaque drawnByte : Nat → Byte

end Sys2Proof.Config
end

