-- ==== Sys2Proof/Machine/State.lean ====
section
/-! DEFINITION. Everything the spec gives the machine (R33, R58, R63, R80), the model's own fields that let one
deterministic step stand for the two agents and the reset input (R30, R31), and the state right after reset. -/

namespace Sys2Proof.Machine

/-- The hidden phase of the unit (R58). -/
inductive Phase where
  | idle
  | busy
deriving DecidableEq, Repr

/-- The outcome of a command: the values STATUS.ERR can hold (R122). Codes 10 to 15 are never written (R43, I19). -/
inductive ErrCode where
  | ok
  | format
  | size
  | checksum
  | storedSize
  | decodedSize
  | unknownType
  | short
  | range
  | illegal
deriving DecidableEq, Repr

/-- The values of CLASS (R54, R123): NONE, STORED, LZ4; the value 3 is never written. -/
inductive PayloadClass where
  | noClass
  | stored
  | lz4
deriving DecidableEq, Repr

/-- A container `(addr, len)` and the class GATE gave it (R184, R185). -/
structure Proven where
  addr : Word
  len  : Word
  cls  : PayloadClass
deriving DecidableEq, Repr

/-- One step of an agent, or the reset input (R30, R31), as it waits in the agenda (log entry 3). -/
inductive Event where
  /-- A host register read: offset from REG_BASE and access width in bytes (R31, R89, R94). -/
  | regRead (off bytes : Nat)
  /-- A host register write (R31, R34). -/
  | regWrite (off bytes : Nat) (v : Word)
  /-- A host read of one byte of buffer memory (R31, R83). -/
  | memRead (a : Word)
  /-- A write of one byte of buffer memory by the host, or by any agent other than this unit (R31, R100, R103; DEDUCED, log
  entry 12). -/
  | memWrite (a : Word) (b : Byte)
  /-- The host's pseudo-instruction `wait` (R127): poll STATUS until BUSY reads 0. -/
  | wait
  /-- The host starts to use the payload of a container: returns it as stored (class STORED), or LZ4-decodes it (class LZ4)
  (R184, R185, R269). -/
  | usePayload (p : Proven)
  /-- The unit's turn: the completion of the command in flight (R60). -/
  | unit
  /-- The reset input (R260). -/
  | reset
deriving DecidableEq, Repr

/-- What the host's latest read returned (R31). -/
inductive Reply where
  | nothing
  | reg (v : Word)
  | byte (b : Byte)
deriving DecidableEq, Repr

/-- Buffer memory (R80): the bytes written so far, by address, strictly rising (DESIGN CHOICE, log entry 2). -/
abbrev Memory := List Host.Cell

/-- A region of buffer memory (R21). -/
structure Region where
  start : Nat
  len   : Nat
deriving DecidableEq, Repr

/-- The machine. MAGIC (R36), CMD (R38) and the reserved offset 0x3C (R35) hold no value: Machine/Operands.lean reads
them as the spec says. CTRL and STATUS are held field by field (R37, R39; DEDUCED, log entry 10); their reserved bits
read 0. -/
structure State where
  /-- CTRL.IE (R37). -/
  ie       : Bool
  /-- STATUS.DONE (R41). -/
  done     : Bool
  /-- STATUS.REJ (R42). -/
  rej      : Bool
  /-- STATUS.ERR (R43). -/
  err      : ErrCode
  /-- SRC_ADDR (R44). -/
  srcAddr  : Word
  /-- SRC_LEN (R45). -/
  srcLen   : Word
  /-- DST_ADDR (R46). -/
  dstAddr  : Word
  /-- F_OSIZE (R47). -/
  fOsize   : Word
  /-- F_CSIZE (R48). -/
  fCsize   : Word
  /-- F_CRC (R49). -/
  fCrc     : Word
  /-- F_TYPE (R50). -/
  fType    : Word
  /-- CRC_OUT (R51). -/
  crcOut   : Word
  /-- LZ4_RES (R52). -/
  lz4Res   : Word
  /-- PAY_LEN (R53). -/
  payLen   : Word
  /-- CLASS (R54). -/
  cls      : PayloadClass
  /-- The hidden phase; STATUS.BUSY reads `phase = busy` (R40, R58). -/
  phase    : Phase
  /-- The word of the command in flight, meaningful only while busy (R58). -/
  cmdword  : Word
  /-- Buffer memory (R80). -/
  mem      : Memory
  /-- The model's own: the steps of the host, the unit and the reset input, in the order they come (R31; DESIGN CHOICE, log
  entry 3). -/
  agenda   : List Event
  /-- The model's own: what the host's latest read returned (DESIGN CHOICE, log entry 5). -/
  reply    : Reply
  /-- The model's own: how many free bytes were drawn so far (DESIGN CHOICE, log entry 6). -/
  draws    : Nat
  /-- The model's own: the containers that a GATE completed with OK on and no byte of which was written since (R185, R269;
  DESIGN CHOICE, log entry 7). -/
  proven   : List Proven
  /-- The parameter MEM_KIND (R95, I8; 92_eei_decisions.md): the platform's device windows and holes in buffer memory, where
  no command's region may lie. No step changes it (DESIGN CHOICE for the form, log entry 13). -/
  memKind  : List Region
deriving DecidableEq, Repr

/-- The host broke a duty; the run is not a run of the hardware (93_implementation_defined.md, treatment "fault"; log
entry 15). -/
inductive Fault where
  /-- Raised by a memory write of an agent other than the in-flight command to a byte of that command's SRC region, for a
  command that reads SRC (R100, R267, I1). Safe: the spec leaves the command's results unspecified. -/
  | srcWrittenWhileBusy
  /-- Raised by a memory write to a byte of DST while BUILD or SEAL is in flight (R101, R268, I3). Safe: the spec leaves
  the byte unspecified. -/
  | dstWrittenWhileBusy
  /-- Raised by the host's use of a payload whose container no passing GATE covers, was written since, or is being written
  by an in-flight BUILD or SEAL (R101, R185, R269, I22). Safe: the gate's guarantee does not hold there. -/
  | payloadNotProven
deriving DecidableEq, Repr

/-- A step the model has no meaning for. -/
inductive Refusal where
  /-- An instruction without a meaning in exec; no arm answers it. Safe. -/
  | notModelled (mnemonic : String)
  /-- Raised by a register access that is not 32 bits wide or not aligned (R35, R89, I6). Safe: the spec refuses it. -/
  | undefinedRegisterAccess
  /-- Raised by an aligned 32-bit access at an offset of 0x40 or more: no register of the unit (R32; log entry 9).
  Safe. -/
  | outsideWindow
  /-- Raised by the completion of a command one of whose regions shares a byte with a device window or a hole of the
  platform, and by a host access to a byte there (R80, R95, R102, I8; log entry 13). Safe: the spec refuses it. -/
  | nonOrdinaryMemory
deriving DecidableEq, Repr

/-- The machine right after reset (R63, R260): every register 0, CLASS NONE, phase IDLE, nothing listed in memory (R81).
`cmdword` is unspecified there (log entry 1); the model's own fields start empty (log entries 3, 5, 6, 7), and the
platform of the reset state has ordinary memory only (log entry 13). -/
def State.reset : State where
  ie := false
  done := false
  rej := false
  err := .ok
  srcAddr := 0
  srcLen := 0
  dstAddr := 0
  fOsize := 0
  fCsize := 0
  fCrc := 0
  fType := 0
  crcOut := 0
  lz4Res := 0
  payLen := 0
  cls := .noClass
  phase := .idle
  cmdword := 0
  mem := []
  agenda := []
  reply := .nothing
  draws := 0
  proven := []
  memKind := []

end Sys2Proof.Machine
end

