-- ==== Sys2Proof/Machine/Ops.lean ====
section
/-! DEFINITION. The named operations over memory and registers: buffer memory (R17, R80, R81), the range check (R84), byte
order (R15), the footer's bytes (R22), and the completion of a command, by error or normally (R18, R19, R60). -/

namespace Sys2Proof.Machine

/-! ### Buffer memory -/

/-- The byte something has written at an address, if any. -/
def Memory.stored : Memory → Nat → Option Byte
  | [], _ => none
  | c :: m, a => if c.1 = a then some c.2 else Memory.stored m a

/-- The byte an address holds (R80, R81): the last byte written, or the free power-up byte (log entry 2). -/
def Memory.read (m : Memory) (a : Nat) : Byte :=
  (Memory.stored m a).getD (Config.powerUpByte a)

/-- Write one byte, keeping the addresses strictly rising. -/
def Memory.write : Memory → Nat → Byte → Memory
  | [], a, b => [(a, b)]
  | c :: m, a, b =>
    if a < c.1 then (a, b) :: c :: m
    else if a = c.1 then (a, b) :: m
    else c :: Memory.write m a b

/-- The canonical form: addresses strictly rising, each one of the buffer memory's (R80). An unlisted address has no
stored byte, so no entry can repeat what an unlisted address holds (log entry 2). -/
abbrev Memory.wf (m : Memory) : Prop :=
  m.Pairwise (fun c d => c.1 < d.1) ∧ ∀ c ∈ m, c.1 < Config.memSize

/-- MemRead(addr, n): n bytes, lowest address first (R17). -/
def memRead (m : Memory) (a : Nat) : Nat → List Byte
  | 0 => []
  | n + 1 => Memory.read m a :: memRead m (a + 1) n

/-- MemWrite(addr, |s|, s): byte i of s to address addr + i (R17). -/
def memWrite (m : Memory) (a : Nat) : List Byte → Memory
  | [] => m
  | b :: bs => memWrite (Memory.write m a b) (a + 1) bs

/-- The bytes at `a` to `a + n - 1` that exist become free bytes, numbered from `k` (R261, I4; log entries 6, 8). -/
def drawRegion (m : Memory) (a : Nat) : Nat → Nat → Memory
  | 0, _ => m
  | n + 1, k =>
    if a < Config.memSize then drawRegion (Memory.write m a (Config.drawnByte k)) (a + 1) n (k + 1) else m

/-- inRange(A, L), on unbounded integers (R84). -/
abbrev inRange (a len : Nat) : Prop := a + len ≤ Config.memSize

/-! ### Byte order and the footer -/

/-- MAGIC_BYTES: the ASCII bytes of "DVPL" (R9, R87). -/
def magicBytes : List Byte := [0x44#8, 0x56#8, 0x50#8, 0x4C#8]

/-- LE32 of four bytes, the least significant first (R15). -/
def le32 (b0 b1 b2 b3 : Byte) : Word := b3 ++ b2 ++ b1 ++ b0

/-- LE32 of the four bytes at an address (R15, R85). -/
def readLE32 (m : Memory) (a : Nat) : Word :=
  le32 (Memory.read m a) (Memory.read m (a + 1)) (Memory.read m (a + 2)) (Memory.read m (a + 3))

/-- bytesLE32 (R15). -/
def bytesLE32 (v : Word) : List Byte :=
  [v.extractLsb' 0 8, v.extractLsb' 8 8, v.extractLsb' 16 8, v.extractLsb' 24 8]

/-- footerBytes(o, c, k, t) (R22). -/
def footerBytes (o c k t : Word) : List Byte :=
  bytesLE32 o ++ bytesLE32 c ++ bytesLE32 k ++ bytesLE32 t ++ magicBytes

/-! ### Named updates of State -/

/-- CLASS is written. -/
def State.setCls (s : State) (c : PayloadClass) : State := { s with cls := c }

/-- CRC_OUT is written. -/
def State.setCrcOut (s : State) (c : Word) : State := { s with crcOut := c }

/-- SRC_LEN is written. -/
def State.setSrcLen (s : State) (n : Word) : State := { s with srcLen := n }

/-- F_CRC is written. -/
def State.setFCrc (s : State) (c : Word) : State := { s with fCrc := c }

/-- F_CSIZE is written. -/
def State.setFCsize (s : State) (n : Word) : State := { s with fCsize := n }

/-- The agenda is replaced (log entry 3). -/
def State.setAgenda (s : State) (es : List Event) : State := { s with agenda := es }

/-- The host's latest read returned `p` (log entry 5). -/
def State.setReply (s : State) (p : Reply) : State := { s with reply := p }

/-- The word of the command in flight is replaced (R58). -/
def State.setCmdword (s : State) (w : Word) : State := { s with cmdword := w }

/-- A host write was rejected (R42, R55). -/
def State.setRej (s : State) : State := { s with rej := true }

/-- Buffer memory is written. -/
def State.setMem (s : State) (m : Memory) : State := { s with mem := m }

/-- The four numeric fields of a footer (R116). -/
structure Footer where
  osize : Word
  csize : Word
  crc   : Word
  typ   : Word
deriving DecidableEq, Repr

/-- F_OSIZE, F_CSIZE, F_CRC, F_TYPE and PAY_LEN are written from a parsed footer (R140). -/
def State.setFooter (s : State) (f : Footer) (n : Word) : State :=
  { s with fOsize := f.osize, fCsize := f.csize, fCrc := f.crc, fType := f.typ, payLen := n }

/-! ### Completion -/

/-- Completion with an outcome: STATUS.ERR, BUSY and DONE in one step (R19, R60). -/
def State.complete (s : State) (e : ErrCode) : State := { s with err := e, phase := .idle, done := true }

/-- `raise E`: the command ends at once and completes with E's code; what it wrote before stays (R18, R230, R232). The
unit traps nowhere, so a next state follows like any other (R238). -/
def raise (e : ErrCode) (s : State) : Host.Outcome State Fault Refusal := .next (s.complete e)

/-- A command that reaches the end of its pseudocode completes with OK (R19). -/
def succeed (s : State) : Host.Outcome State Fault Refusal := .next (s.complete .ok)

/-- The return from a completion: nothing is restored, the host clears DONE (R238). -/
def State.clearDone (s : State) : State := { s with done := false }

/-- Issue of a command word (R59). -/
def State.issue (s : State) (w : Word) : State := { s with cmdword := w, phase := .busy, done := false }

end Sys2Proof.Machine
end

