-- ==== Sys2Proof/Machine/Flags.lean ====
section
/-! DEFINITION. The status computations: STATUS, CTRL and CLASS as words, the result codes, and the interrupt output. The
unit has no arithmetic condition flags (R66). -/

namespace Sys2Proof.Machine

/-- The code of an outcome, bits 7:4 of STATUS (R122). -/
def errCode : ErrCode → BitVec 4
  | .ok => 0
  | .format => 1
  | .size => 2
  | .checksum => 3
  | .storedSize => 4
  | .decodedSize => 5
  | .unknownType => 6
  | .short => 7
  | .range => 8
  | .illegal => 9

/-- STATUS.BUSY (R40, R58). -/
def busyFlag (s : State) : Bool :=
  match s.phase with
  | .idle => false
  | .busy => true

/-- STATUS as the host reads it (R39): ERR in bits 7:4, REJ in bit 2, DONE in bit 1, BUSY in bit 0, the rest 0. -/
def statusWord (s : State) : Word :=
  0#24 ++ errCode s.err ++ 0#1 ++ BitVec.ofBool s.rej ++ BitVec.ofBool s.done ++ BitVec.ofBool (busyFlag s)

/-- CTRL as the host reads it (R37): IE in bit 0, the rest 0. -/
def ctrlWord (s : State) : Word := 0#31 ++ BitVec.ofBool s.ie

/-- CLASS as the host reads it (R54, R123). -/
def classWord : PayloadClass → Word
  | .noClass => 0
  | .stored => 1
  | .lz4 => 2

/-- The interrupt output, a level: CTRL.IE and STATUS.DONE (R236). -/
def irq (s : State) : Bool := s.ie && s.done

/-- The type dispatch (R180; R182 step 5). -/
def classify (typ osize csize : Word) : Except ErrCode PayloadClass :=
  if typ = 0 then
    if osize ≠ csize then .error .storedSize else .ok .stored
  else if typ = 1 ∨ typ = 2 then .ok .lz4
  else .error .unknownType

end Sys2Proof.Machine
end

