-- ==== Sys2Proof/Machine/Operands.lean ====
section
/-! DEFINITION. Where commands and the host take their operands: the registers by name and offset (R33, R112), the regions
SRC and DST (R21), the parsed footer (R140, R141) and the regions a command in flight reads and writes (R82). -/

namespace Sys2Proof.Machine

/-- The sixteen words of the register window (R33). -/
inductive Reg where
  | magic | ctrl | cmd | status | srcAddr | srcLen | dstAddr | fOsize
  | fCsize | fCrc | fType | crcOut | lz4Res | payLen | cls | reserved
deriving DecidableEq, Repr

/-- The register at an offset from REG_BASE (R33). -/
def regAt : Nat → Option Reg
  | 0x00 => some .magic
  | 0x04 => some .ctrl
  | 0x08 => some .cmd
  | 0x0C => some .status
  | 0x10 => some .srcAddr
  | 0x14 => some .srcLen
  | 0x18 => some .dstAddr
  | 0x1C => some .fOsize
  | 0x20 => some .fCsize
  | 0x24 => some .fCrc
  | 0x28 => some .fType
  | 0x2C => some .crcOut
  | 0x30 => some .lz4Res
  | 0x34 => some .payLen
  | 0x38 => some .cls
  | 0x3C => some .reserved
  | _ => none

/-- The offset of a register from REG_BASE (R33). -/
def regOffset : Reg → Nat
  | .magic => 0x00
  | .ctrl => 0x04
  | .cmd => 0x08
  | .status => 0x0C
  | .srcAddr => 0x10
  | .srcLen => 0x14
  | .dstAddr => 0x18
  | .fOsize => 0x1C
  | .fCsize => 0x20
  | .fCrc => 0x24
  | .fType => 0x28
  | .crcOut => 0x2C
  | .lz4Res => 0x30
  | .payLen => 0x34
  | .cls => 0x38
  | .reserved => 0x3C

/-- The bus address of a register (R32, R94). -/
def busAddress (r : Reg) : Nat := Config.regBase + regOffset r

/-- The word a register reads as: MAGIC is constant (R36), CMD and offset 0x3C read 0 (R35, R38). Reading has no effect
(R94). -/
def readReg (r : Reg) (s : State) : Word :=
  match r with
  | .magic => 0x4C505644#32
  | .ctrl => ctrlWord s
  | .cmd => 0
  | .status => statusWord s
  | .srcAddr => s.srcAddr
  | .srcLen => s.srcLen
  | .dstAddr => s.dstAddr
  | .fOsize => s.fOsize
  | .fCsize => s.fCsize
  | .fCrc => s.fCrc
  | .fType => s.fType
  | .crcOut => s.crcOut
  | .lz4Res => s.lz4Res
  | .payLen => s.payLen
  | .cls => classWord s.cls
  | .reserved => 0

/-! ### Regions -/

/-- An address lies in a region (R21). -/
def Region.contains (r : Region) (a : Nat) : Bool := decide (r.start ≤ a ∧ a < r.start + r.len)

/-- Two regions share an address. -/
def Region.overlaps (r q : Region) : Bool :=
  decide (0 < r.len ∧ 0 < q.len ∧ r.start < q.start + q.len ∧ q.start < r.start + r.len)

/-- SRC, the region (SRC_ADDR, SRC_LEN) (R21). -/
def State.src (s : State) : Region := ⟨s.srcAddr.toNat, s.srcLen.toNat⟩

/-- DST, the region (DST_ADDR, 20) (R21). -/
def State.dst (s : State) : Region := ⟨s.dstAddr.toNat, Config.footerLen⟩

/-- A region is in range (R84). -/
abbrev Region.inRange (r : Region) : Prop := Machine.inRange r.start r.len

/-- The region of a container. -/
def Proven.region (p : Proven) : Region := ⟨p.addr.toNat, p.len.toNat⟩

/-- The commands that read SRC (R82, R100). -/
def readsSrc : Instr → Bool
  | .parse | .crc | .vcrc | .gate | .sealFooter => true
  | .nop | .build | .vsize | .typechk | .vdec => false
  | .illegalAB _ | .illegalCF _ | .illegalZ _ _ => false

/-- The commands that write DST (R82, R101). -/
def writesDst : Instr → Bool
  | .build | .sealFooter => true
  | .nop | .parse | .crc | .vsize | .vcrc | .typechk | .vdec | .gate => false
  | .illegalAB _ | .illegalCF _ | .illegalZ _ _ => false

/-- The command in flight, if any (R58, R60). -/
def State.inFlight (s : State) : Option Instr :=
  match s.phase with
  | .idle => none
  | .busy => some (decodeWord s.cmdword)

/-- The address is a byte of the SRC region of an in-flight command that reads SRC (R100). -/
def State.srcBusy (s : State) (a : Nat) : Bool :=
  match s.inFlight with
  | none => false
  | some i => readsSrc i && s.src.contains a

/-- The address is a byte of the DST region of an in-flight BUILD or SEAL (R101). -/
def State.dstBusy (s : State) (a : Nat) : Bool :=
  match s.inFlight with
  | none => false
  | some i => writesDst i && s.dst.contains a

/-- A region shares a byte with the DST region of an in-flight BUILD or SEAL, whose bytes are unspecified (R101). -/
def State.dstBusyOver (s : State) (r : Region) : Bool :=
  match s.inFlight with
  | none => false
  | some i => writesDst i && r.overlaps s.dst

/-! ### Where the platform has no ordinary memory (R95, I8; log entry 13) -/

/-- The address lies in a device window or a hole of the platform (MEM_KIND). -/
def State.nonOrdinary (s : State) (a : Nat) : Bool := s.memKind.any (fun q => q.contains a)

/-- The regions a command accesses (R82): SRC if it reads it, DST if it writes it, and none if one of them is out of range,
since the command then makes no access at all (R84). -/
def State.touched (s : State) (i : Instr) : List Region :=
  if (readsSrc i = true ∧ ¬ s.src.inRange) ∨ (writesDst i = true ∧ ¬ s.dst.inRange) then []
  else (if readsSrc i then [s.src] else []) ++ (if writesDst i then [s.dst] else [])

/-- A region the command accesses shares a byte with a device window or a hole of the platform (R95, I8). -/
def State.misplaced (s : State) (i : Instr) : Bool :=
  (s.touched i).any (fun r => s.memKind.any (fun q => r.overlaps q))

/-! ### The footer of a container -/

/-- The four fields of the footer that starts at an address (R116, R118, R141). -/
def footerAt (m : Memory) (a : Nat) : Footer where
  osize := readLE32 m a
  csize := readLE32 m (a + 4)
  crc := readLE32 m (a + 8)
  typ := readLE32 m (a + 12)

/-- The checks of PARSE, in their order, and the footer they let through (R140; R182 step 1). -/
def parseFooter (m : Memory) (a len : Nat) : Except ErrCode Footer :=
  if ¬ inRange a len then .error .range
  else if len < 4 then .error .format
  else if memRead m (a + len - 4) 4 ≠ magicBytes then .error .format
  else if len < 20 then .error .short
  else .ok (footerAt m (a + len - 20))

end Sys2Proof.Machine
end

