-- ==== Sys2Proof/Machine/Bus.lean ====
section
/-! DEFINITION. The register bus: what a host register read and a host register write do (R34 to R59, R89, R94). -/

namespace Sys2Proof.Machine

/-- A write that is rejected while BUSY: the register keeps its value and REJ is set (R42, R55). -/
def ifIdle (s t : State) : State :=
  match s.phase with
  | .idle => t
  | .busy => s.setRej

/-- A write of STATUS: bits 1 and 2 are write-1-to-clear, every other bit is ignored (R39, R57). -/
def writeStatus (v : Word) (s : State) : State :=
  { (if v.getLsbD 1 then s.clearDone else s) with rej := s.rej && !v.getLsbD 2 }

/-- A host write of a register (R34): CTRL and STATUS at any time (R57), CMD issues (R59), the argument registers store
all 32 bits while idle (R55), every other register ignores it (R56). -/
def writeReg (r : Reg) (v : Word) (s : State) : State :=
  match r with
  | .ctrl => { s with ie := v.getLsbD 0 }
  | .status => writeStatus v s
  | .cmd => ifIdle s (s.issue v)
  | .srcAddr => ifIdle s { s with srcAddr := v }
  | .srcLen => ifIdle s (s.setSrcLen v)
  | .dstAddr => ifIdle s { s with dstAddr := v }
  | .fOsize => ifIdle s { s with fOsize := v }
  | .fCsize => ifIdle s { s with fCsize := v }
  | .fCrc => ifIdle s { s with fCrc := v }
  | .fType => ifIdle s { s with fType := v }
  | .lz4Res => ifIdle s { s with lz4Res := v }
  | .magic | .crcOut | .payLen | .cls | .reserved => s

/-- A register access: aligned and 32 bits wide, or refused (R35, R89, I6); inside the window of 64 bytes (R32). -/
def busAccess (off bytes : Nat) (k : Reg → State) : Host.Outcome State Fault Refusal :=
  if bytes ≠ 4 ∨ off % 4 ≠ 0 then .refused .undefinedRegisterAccess
  else
    match regAt off with
    | none => .refused .outsideWindow
    | some r => .next (k r)

/-- A host register read; no side effect but the host's own reply (R94). -/
def hostRegRead (off bytes : Nat) (s : State) : Host.Outcome State Fault Refusal :=
  busAccess off bytes (fun r => s.setReply (.reg (readReg r s)))

/-- A host register write (R34, R92). -/
def hostRegWrite (off bytes : Nat) (v : Word) (s : State) : Host.Outcome State Fault Refusal :=
  busAccess off bytes (fun r => writeReg r v s)

end Sys2Proof.Machine
end

