-- ==== Sys2Proof/Machine/Codec.lean ====
section
/-! DEFINITION. The footer codec commands PARSE and BUILD (40_footer_codec.md). -/

namespace Sys2Proof.Machine

/-- PARSE (R140): on an error no register but STATUS changes. -/
def execParse (s : State) : Host.Outcome State Fault Refusal :=
  match parseFooter s.mem s.srcAddr.toNat s.srcLen.toNat with
  | .error e => raise e s
  | .ok f => succeed (s.setFooter f (s.srcLen - 20))

/-- BUILD (R143): the 20 bytes of DST, or nothing at all. -/
def execBuild (s : State) : Host.Outcome State Fault Refusal :=
  if ¬ s.dst.inRange then raise .range s
  else succeed (s.setMem (memWrite s.mem s.dstAddr.toNat (footerBytes s.fOsize s.fCsize s.fCrc s.fType)))

end Sys2Proof.Machine
end

