-- ==== Sys2Proof/Machine/Control.lean ====
section
/-! DEFINITION. The control commands: NOP and the illegal words (44_control.md). -/

namespace Sys2Proof.Machine

/-- NOP (R210). -/
def execNop (s : State) : Host.Outcome State Fault Refusal := succeed s

/-- The reserved opcodes 0xA and 0xB complete with ILLEGAL (R211). -/
def execIllegalAB (s : State) : Host.Outcome State Fault Refusal := raise .illegal s

/-- The reserved opcodes 0xC to 0xF complete with ILLEGAL (R211). -/
def execIllegalCF (s : State) : Host.Outcome State Fault Refusal := raise .illegal s

/-- A word with nonzero reserved bits completes with ILLEGAL, whatever its OP field (R111, R211). -/
def execIllegalZ (s : State) : Host.Outcome State Fault Refusal := raise .illegal s

end Sys2Proof.Machine
end

