-- ==== Sys2Proof/Machine/Crc.lean ====
section
/-! DEFINITION. The CRC engine (R5, R8, R160). -/

namespace Sys2Proof.Machine

/-- One of the eight steps for a byte (R160). -/
def crcShift (polyRev crc : Word) : Word :=
  if crc.getLsbD 0 then (crc >>> 1) ^^^ polyRev else crc >>> 1

/-- `n` such steps. -/
def crcShifts (polyRev : Word) : Nat → Word → Word
  | 0, crc => crc
  | n + 1, crc => crcShifts polyRev n (crcShift polyRev crc)

/-- The CRC register after one more byte (R160). -/
def crcByte (polyRev crc : Word) (b : Byte) : Word :=
  crcShifts polyRev 8 (crc ^^^ b.setWidth 32)

/-- The CRC register after a byte sequence, in increasing address order (R160). -/
def crcFold (polyRev crc : Word) : List Byte → Word
  | [] => crc
  | b :: bs => crcFold polyRev (crcByte polyRev crc b) bs

/-- The CRC of a byte sequence under a variant (R8, R160). -/
def crcOf (v : Config.CrcVariant) (bs : List Byte) : Word :=
  crcFold v.polyRev v.init bs ^^^ v.xorOut

/-- CRC-32/ISO-HDLC, CRC_VARIANT for this hardware (R8). -/
def crcIsoHdlc : Config.CrcVariant where
  polyRev := 0xEDB88320#32
  init := 0xFFFFFFFF#32
  xorOut := 0xFFFFFFFF#32

/-- CRC32(s) (R160). -/
def crc32 (bs : List Byte) : Word := crcOf crcIsoHdlc bs

end Sys2Proof.Machine
end

