-- ==== Sys2Proof/Machine/Integrity.lean ====
section
/-! DEFINITION. The integrity commands CRC, VSIZE and VCRC (41_integrity.md). -/

namespace Sys2Proof.Machine

/-- CRC32(MemRead(A, n)) of the first `n` bytes of SRC (R160, R162, R182). -/
def srcCrc (s : State) (n : Nat) : Word := crc32 (memRead s.mem s.srcAddr.toNat n)

/-- CRC (R162). -/
def execCrc (s : State) : Host.Outcome State Fault Refusal :=
  if ¬ s.src.inRange then raise .range s
  else succeed (s.setCrcOut (srcCrc s s.srcLen.toNat))

/-- VSIZE (R163): touches no memory, so no range check. -/
def execVsize (s : State) : Host.Outcome State Fault Refusal :=
  if s.srcLen ≠ s.fCsize then raise .size s else succeed s

/-- The checksum check (R164; R182 step 4): CRC_OUT is written whether or not it matches. -/
def checkCrc (c : Word) (s : State) (k : State → Host.Outcome State Fault Refusal) : Host.Outcome State Fault Refusal :=
  if c ≠ s.fCrc then raise .checksum (s.setCrcOut c) else k (s.setCrcOut c)

/-- VCRC (R164). -/
def execVcrc (s : State) : Host.Outcome State Fault Refusal :=
  if ¬ s.src.inRange then raise .range s
  else checkCrc (srcCrc s s.srcLen.toNat) s succeed

end Sys2Proof.Machine
end

