-- ==== Sys2Proof/Machine/Gate.lean ====
section
/-! DEFINITION. The decoder commands TYPECHK, VDEC and GATE (42_decoder_gate.md). -/

namespace Sys2Proof.Machine

/-- The type dispatch on the footer registers, CLASS written on success only (R180; R182 step 5). -/
def dispatchType (s : State) : Host.Outcome State Fault Refusal :=
  match classify s.fType s.fOsize s.fCsize with
  | .error e => raise e s
  | .ok c => succeed (s.setCls c)

/-- TYPECHK (R180): CLASS is NONE on an error. -/
def execTypechk (s : State) : Host.Outcome State Fault Refusal := dispatchType (s.setCls .noClass)

/-- VDEC (R181): the failure signal wins over an equal count (R125). -/
def execVdec (s : State) : Host.Outcome State Fault Refusal :=
  if s.lz4Res = 0xFFFFFFFF#32 then raise .decodedSize s
  else if s.lz4Res ≠ s.fOsize then raise .decodedSize s
  else succeed s

/-- GATE steps 3 to 5, after the parse: size, checksum, type (R165, R182, R234). -/
def gateChecks (s : State) : Host.Outcome State Fault Refusal :=
  if s.payLen ≠ s.fCsize then raise .size s
  else checkCrc (srcCrc s s.payLen.toNat) s dispatchType

/-- GATE (R182). -/
def execGate (s : State) : Host.Outcome State Fault Refusal :=
  match parseFooter s.mem s.srcAddr.toNat s.srcLen.toNat with
  | .error e => raise e (s.setCls .noClass)
  | .ok f => gateChecks ((s.setCls .noClass).setFooter f (s.srcLen - 20))

end Sys2Proof.Machine
end

