-- ==== Sys2Proof/Machine/Seal.lean ====
section
/-! DEFINITION. The encoder command SEAL (43_encoder_seal.md). -/

namespace Sys2Proof.Machine

/-- SEAL past its range checks: the CRC is of SRC before any byte of DST is written (R88, R200). -/
def sealWith (c : Word) (s : State) : State :=
  (((s.setCrcOut c).setFCrc c).setFCsize s.srcLen).setMem
    (memWrite s.mem s.dstAddr.toNat (footerBytes s.fOsize s.srcLen c s.fType))

/-- SEAL (R200): SRC is checked before DST; on RANGE nothing but STATUS is written. -/
def execSeal (s : State) : Host.Outcome State Fault Refusal :=
  if ¬ s.src.inRange then raise .range s
  else if ¬ s.dst.inRange then raise .range s
  else succeed (sealWith (srcCrc s s.srcLen.toNat) s)

end Sys2Proof.Machine
end

