-- ==== Sys2Proof/Machine/Dispatch.lean ====
section
/-! DEFINITION. The completion of each command (R60, R113): one arm for each constructor of Instr. -/

namespace Sys2Proof.Machine

def exec (i : Instr) (s : State) : Host.Outcome State Fault Refusal :=
  match i with
  | .nop => Sys2Proof.Machine.execNop s
  | .parse => Sys2Proof.Machine.execParse s
  | .build => Sys2Proof.Machine.execBuild s
  | .crc => Sys2Proof.Machine.execCrc s
  | .vsize => Sys2Proof.Machine.execVsize s
  | .vcrc => Sys2Proof.Machine.execVcrc s
  | .typechk => Sys2Proof.Machine.execTypechk s
  | .vdec => Sys2Proof.Machine.execVdec s
  | .gate => Sys2Proof.Machine.execGate s
  | .sealFooter => Sys2Proof.Machine.execSeal s
  | .illegalAB _ => Sys2Proof.Machine.execIllegalAB s
  | .illegalCF _ => Sys2Proof.Machine.execIllegalCF s
  | .illegalZ _ _ => Sys2Proof.Machine.execIllegalZ s

end Sys2Proof.Machine
end

