-- ==== Sys2Proof/Machine/Agents.lean ====
section
/-! DEFINITION. The steps of the agents (R30, R31): the host's accesses to buffer memory and its use of a payload, the
unit's completion of the command in flight, and the reset input. -/

namespace Sys2Proof.Machine

/-! ### The containers that a passing GATE covers -/

/-- Bytes of a region were written: a container that shares a byte with it is no longer covered (R185, R269). -/
def State.noteWritten (s : State) (r : Region) : State :=
  { s with proven := s.proven.filter (fun p => !p.region.overlaps r) }

/-- What a completed command does to the covered containers: a GATE that gave OK adds its own; BUILD and SEAL write DST
when they give OK (R185, R232). `s` is the state the command leaves. -/
def noteCompletion (i : Instr) (s : State) : State :=
  match i with
  | .gate => if s.err = .ok then { s with proven := s.proven.insert ⟨s.srcAddr, s.srcLen, s.cls⟩ } else s
  | .build | .sealFooter => if s.err = .ok then s.noteWritten s.dst else s
  | .nop | .parse | .crc | .vsize | .vcrc | .typechk | .vdec => s
  | .illegalAB _ | .illegalCF _ | .illegalZ _ _ => s

/-! ### The unit -/

/-- The completion of a command: its meaning, and then the model's note of the containers it covers or overwrites. -/
def runCommand (i : Instr) (s : State) : Host.Outcome State Fault Refusal :=
  match exec i s with
  | .next t => .next (noteCompletion i t)
  | .fault r => .fault r
  | .refused r => .refused r

/-- The unit's step: the completion of the command in flight (R60), refused where a region it accesses does not lie in
ordinary memory (R95, I8); an idle unit has none and keeps every register (R243). -/
def unitStep (s : State) : Host.Outcome State Fault Refusal :=
  match s.inFlight with
  | none => .next s
  | some i => if s.misplaced i then .refused .nonOrdinaryMemory else runCommand i s

/-! ### The host and buffer memory -/

/-- A host read of a byte: any byte while BUILD or SEAL is in flight over it (R101, I2), else what memory holds (R81,
R102). What a device window or a hole answers is the platform's, and refused (R102, I8; log entry 13). -/
def hostMemRead (a : Word) (s : State) : Host.Outcome State Fault Refusal :=
  if s.dstBusy a.toNat then .next { s.setReply (.byte (Config.drawnByte s.draws)) with draws := s.draws + 1 }
  else if s.nonOrdinary a.toNat then .refused .nonOrdinaryMemory
  else .next (s.setReply (.byte (Memory.read s.mem a.toNat)))

/-- A write of a byte by any agent but the in-flight command (R100 to R103, I1, I3; log entry 8), refused in a device
window or a hole (R102, I8; log entry 13). -/
def hostMemWrite (a : Word) (b : Byte) (s : State) : Host.Outcome State Fault Refusal :=
  if s.srcBusy a.toNat then .fault .srcWrittenWhileBusy
  else if s.dstBusy a.toNat then .fault .dstWrittenWhileBusy
  else if s.nonOrdinary a.toNat then .refused .nonOrdinaryMemory
  else .next ((s.setMem (Memory.write s.mem a.toNat b)).noteWritten ⟨a.toNat, 1⟩)

/-- The host starts to use a payload: it may when a passing GATE covers the container and gave that class, and no BUILD
or SEAL is in flight over it (R101, R184, R185, R269, I22). DESIGN CHOICE, log entry 7: an OK from VSIZE and then VCRC,
which R165 asks for when the host issues the checks separately, does not cover a container; R185 asks for a GATE. -/
def hostUsePayload (p : Proven) (s : State) : Host.Outcome State Fault Refusal :=
  if p ∈ s.proven ∧ s.dstBusyOver p.region = false then .next s else .fault .payloadNotProven

/-- `wait`: read STATUS until BUSY reads 0 (R127). After a poll that reads BUSY the unit gets its turn before the next
poll (R264; log entry 11). -/
def hostWait (s : State) : Host.Outcome State Fault Refusal :=
  .next ((s.setReply (.reg (statusWord s))).setAgenda (if busyFlag s then .unit :: .wait :: s.agenda else s.agenda))

/-! ### Reset -/

/-- A reset that aborts BUILD or SEAL leaves every byte of DST any byte (R261, I4); otherwise memory stays (R262). DESIGN
CHOICE, log entry 13: the same where the aborted command has a region in a device window or a hole (I8). The reset is taken
and not refused; the bytes of DST there are drawn too. -/
def abortWrites (s : State) : State :=
  match s.inFlight with
  | none => s
  | some i =>
    if writesDst i then
      { s.setMem (drawRegion s.mem s.dst.start s.dst.len s.draws) with draws := s.draws + s.dst.len }.noteWritten s.dst
    else s

/-- The reset step (R260): every register and hidden state to its reset value; buffer memory, the platform and the host's
own side stay (R262). -/
def resetStep (s : State) : State :=
  { State.reset with
    mem := (abortWrites s).mem
    agenda := s.agenda
    reply := s.reply
    draws := (abortWrites s).draws
    proven := (abortWrites s).proven
    memKind := s.memKind }

/-- One step of the agent whose turn it is. -/
def eventStep (e : Event) (s : State) : Host.Outcome State Fault Refusal :=
  match e with
  | .regRead off bytes => hostRegRead off bytes s
  | .regWrite off bytes v => hostRegWrite off bytes v s
  | .memRead a => hostMemRead a s
  | .memWrite a b => hostMemWrite a b s
  | .wait => hostWait s
  | .usePayload p => hostUsePayload p s
  | .unit => unitStep s
  | .reset => .next (resetStep s)

end Sys2Proof.Machine
end

