-- ==== Sys2Proof/Machine/HostProgram.lean ====
section
/-! DEFINITION. The host notation of 30_encoding.md (R126, R127): each line as the steps it puts on the agenda. -/

namespace Sys2Proof.Machine

/-- `wr NAME, v` (R126). -/
def wr (r : Reg) (v : Word) : Event := .regWrite (regOffset r) 4 v

/-- `rd NAME` (R126). -/
def rd (r : Reg) : Event := .regRead (regOffset r) 4

/-- `mw A, [b0, b1, ...]`: one memory write for each byte (R126). DESIGN CHOICE, log entry 17: the spec gives no meaning to a
byte past the top of memory; addresses are u32 and the one after 0xFFFFFFFF is 0. -/
def mw (a : Word) : List Byte → List Event
  | [] => []
  | b :: bs => .memWrite a b :: mw (a + 1) bs

/-- `mr A, n`: one memory read for each byte (R126). DESIGN CHOICE, log entry 17: past the top of memory as `mw`. -/
def mr (a : Word) : Nat → List Event
  | 0 => []
  | n + 1 => .memRead a :: mr (a + 1) n

/-- `cmd MNEMONIC` (R127). -/
def cmd (i : Instr) : Event := wr .cmd (encode i)

/-- `run MNEMONIC`: `cmd`, then `wait` (R127). -/
def run (i : Instr) : List Event := [cmd i, .wait]

/-- `clr`: clears DONE and REJ (R127). -/
def clr : Event := wr .status 0x6#32

end Sys2Proof.Machine
end

