-- ==== Sys2Proof/Machine/Step.lean ====
section
/-! DEFINITION. One step of the machine: the next entry of the agenda, and when it is empty the unit's own completion (R60,
R264; log entry 3). -/

namespace Sys2Proof.Machine

/-- One step. -/
def step (s : State) : Host.Outcome State Fault Refusal :=
  match s.agenda with
  | [] => unitStep s
  | e :: rest => eventStep e (s.setAgenda rest)

/-- The state in which the command word `w` has just been issued and the unit's turn is next, so that the very next step
completes it (R59, R60; log entry 4). -/
def State.withFetchWord (s : State) (nbits w : Nat) : State :=
  (s.issue (wordOfBits nbits w)).setAgenda (.unit :: s.agenda)

end Sys2Proof.Machine
end

