-- ==== Sys2Proof/Safety.lean ====
section
/-! DEFINITION. The terms that claims about the machine use: the register table of R62, the codes of R231, what a command
reads (R67, R124), the invariant of every state, the sequence GATE stands for (R183), and the CRC in the form that R8
names its parameters in. -/

namespace Sys2Proof.Machine

/-! ### The tables -/

/-- The registers a command writes besides STATUS when its outcome is `e` (R62). -/
def writtenRegs (i : Instr) (e : ErrCode) : List Reg :=
  match i with
  | .nop | .build | .vsize | .vdec => []
  | .parse => if e = .ok then [.fOsize, .fCsize, .fCrc, .fType, .payLen] else []
  | .crc | .vcrc => if e = .range then [] else [.crcOut]
  | .typechk => [.cls]
  | .gate =>
    if e = .range ∨ e = .format ∨ e = .short then [.cls]
    else if e = .size then [.cls, .fOsize, .fCsize, .fCrc, .fType, .payLen]
    else [.cls, .fOsize, .fCsize, .fCrc, .fType, .payLen, .crcOut]
  | .sealFooter => if e = .ok then [.crcOut, .fCrc, .fCsize] else []
  | .illegalAB _ | .illegalCF _ | .illegalZ _ _ => []

/-- The outcomes a command can complete with (R231). -/
def outcomes : Instr → List ErrCode
  | .nop => [.ok]
  | .parse => [.ok, .format, .short, .range]
  | .build | .crc | .sealFooter => [.ok, .range]
  | .vsize => [.ok, .size]
  | .vcrc => [.ok, .checksum, .range]
  | .typechk => [.ok, .storedSize, .unknownType]
  | .vdec => [.ok, .decodedSize]
  | .gate => [.ok, .format, .size, .checksum, .storedSize, .unknownType, .short, .range]
  | .illegalAB _ | .illegalCF _ | .illegalZ _ _ => [.illegal]

/-- The registers a command takes operands from (R112; the Operands line of each command's rule). -/
def readRegs : Instr → List Reg
  | .nop | .illegalAB _ | .illegalCF _ | .illegalZ _ _ => []
  | .parse | .crc | .gate => [.srcAddr, .srcLen]
  | .build => [.dstAddr, .fOsize, .fCsize, .fCrc, .fType]
  | .vsize => [.srcLen, .fCsize]
  | .vcrc => [.srcAddr, .srcLen, .fCrc]
  | .typechk => [.fType, .fOsize, .fCsize]
  | .vdec => [.lz4Res, .fOsize]
  | .sealFooter => [.srcAddr, .srcLen, .dstAddr, .fOsize, .fType]

/-- The registers that a host write stores into while idle and that are locked while busy, CMD apart (R34, R55). -/
def argumentRegs : List Reg := [.srcAddr, .srcLen, .dstAddr, .fOsize, .fCsize, .fCrc, .fType, .lz4Res]

/-- The registers a host write never changes (R56). -/
def readOnlyRegs : List Reg := [.magic, .crcOut, .payLen, .cls, .reserved]

/-- Two states give a command the same inputs: the registers it reads, and the bytes of SRC if it reads them (R67, R124). -/
def sameInputs (i : Instr) (s t : State) : Prop :=
  (∀ r ∈ readRegs i, readReg r s = readReg r t) ∧
    (readsSrc i = true → ∀ a, s.src.contains a = true → Memory.read s.mem a = Memory.read t.mem a)

/-- The command accesses this byte: one of SRC if it reads SRC, one of DST if it writes DST (R82), and none at all where one
of these regions is out of range (R84). -/
def accessesByte (i : Instr) (s : State) (x : Nat) : Prop :=
  (readsSrc i = true → s.srcAddr.toNat + s.srcLen.toNat ≤ 2 ^ 32) ∧
    (writesDst i = true → s.dstAddr.toNat + 20 ≤ 2 ^ 32) ∧
    (readsSrc i = true ∧ s.srcAddr.toNat ≤ x ∧ x < s.srcAddr.toNat + s.srcLen.toNat ∨
      writesDst i = true ∧ s.dstAddr.toNat ≤ x ∧ x < s.dstAddr.toNat + 20)

/-! ### Memory as the spec's own formulas read it -/

/-- LE32 of the four bytes at an address, by the sum of R15. -/
def wordAt (m : Memory) (a : Nat) : Word :=
  BitVec.ofNat 32 ((Memory.read m a).toNat + 256 * (Memory.read m (a + 1)).toNat +
    65536 * (Memory.read m (a + 2)).toNat + 16777216 * (Memory.read m (a + 3)).toNat)

/-- The four bytes at an address are D, V, P, L (R9, R87, R119). -/
def magicAt (m : Memory) (a : Nat) : Prop :=
  Memory.read m a = 0x44#8 ∧ Memory.read m (a + 1) = 0x56#8 ∧ Memory.read m (a + 2) = 0x50#8 ∧
    Memory.read m (a + 3) = 0x4C#8

/-- The 20 bytes at an address are the footer of these fields (R116, R117). -/
def footerIsAt (m : Memory) (a : Nat) (o c k t : Word) : Prop :=
  wordAt m a = o ∧ wordAt m (a + 4) = c ∧ wordAt m (a + 8) = k ∧ wordAt m (a + 12) = t ∧ magicAt m (a + 16)

/-- Two memories hold the same bytes at `a` to `a + n - 1`. -/
def sameBytes (m m' : Memory) (a n : Nat) : Prop := ∀ x, a ≤ x → x < a + n → Memory.read m x = Memory.read m' x

/-- Two memories hold the same bytes everywhere but at `a` to `a + n - 1`. -/
def sameBytesOutside (m m' : Memory) (a n : Nat) : Prop :=
  ∀ x, x < a ∨ a + n ≤ x → Memory.read m x = Memory.read m' x

/-! ### The invariant -/

/-- The container in memory passes every check of GATE, with the class it was given (R182, R185): in range, at least 20
bytes, the magic, the size, the checksum, the type. -/
def Proven.holds (p : Proven) (m : Memory) : Prop :=
  p.region.inRange ∧ 20 ≤ p.len.toNat ∧
    memRead m (p.addr.toNat + p.len.toNat - 4) 4 = magicBytes ∧
    (footerAt m (p.addr.toNat + p.len.toNat - 20)).csize.toNat = p.len.toNat - 20 ∧
    crc32 (memRead m p.addr.toNat (p.len.toNat - 20)) = (footerAt m (p.addr.toNat + p.len.toNat - 20)).crc ∧
    classify (footerAt m (p.addr.toNat + p.len.toNat - 20)).typ (footerAt m (p.addr.toNat + p.len.toNat - 20)).osize
      (footerAt m (p.addr.toNat + p.len.toNat - 20)).csize = .ok p.cls

/-- What every step keeps: memory is in its canonical form; DONE is 0 while a command is in flight (R40, R41); every
container the host may use still passes the gate (R185). -/
structure Inv (s : State) : Prop where
  memory  : Memory.wf s.mem
  notDone : s.phase = .busy → s.done = false
  covered : ∀ p ∈ s.proven, p.holds s.mem

/-! ### GATE as a sequence of commands -/

/-- Go on with the next command of a sequence only after OK (R183). -/
def thenIfOk (o : Host.Outcome State Fault Refusal) (k : State → Host.Outcome State Fault Refusal) :
    Host.Outcome State Fault Refusal :=
  match o with
  | .next t => if t.err = .ok then k t else .next t
  | .fault r => .fault r
  | .refused r => .refused r

/-- PARSE; VSIZE on SRC_LEN = L - 20; VCRC on SRC = (A, L - 20); TYPECHK, stopping at the first error, from CLASS = NONE
(R183). -/
def gateSequence (s : State) : Host.Outcome State Fault Refusal :=
  thenIfOk (exec .parse (s.setCls .noClass)) fun p =>
    thenIfOk (exec .vsize (p.setSrcLen (p.srcLen - 20))) fun q =>
      thenIfOk (exec .vcrc q) fun r => exec .typechk r

/-- A host puts SRC_LEN back after such a sequence. -/
def restoreSrcLen (n : Word) (o : Host.Outcome State Fault Refusal) : Host.Outcome State Fault Refusal :=
  match o with
  | .next t => .next (t.setSrcLen n)
  | .fault r => .fault r
  | .refused r => .refused r

/-! ### The CRC with its parameters as R8 names them -/

/-- One step of a CRC register that shifts towards the most significant bit. -/
def msbShift (poly c : Word) : Word := if c.getLsbD 31 then (c <<< 1) ^^^ poly else c <<< 1

/-- `n` such steps. -/
def msbShifts (poly : Word) : Nat → Word → Word
  | 0, c => c
  | n + 1, c => msbShifts poly n (msbShift poly c)

/-- The register after a byte sequence, each byte reflected on input. -/
def msbFold (poly c : Word) : List Byte → Word
  | [] => c
  | b :: bs => msbFold poly (msbShifts poly 8 (c ^^^ (b.reverse.setWidth 32 <<< 24))) bs

/-- CRC-32 with polynomial 0x04C11DB7, initial value 0xFFFFFFFF, input and output reflected, final XOR 0xFFFFFFFF (R8). -/
def crc32Reflected (bs : List Byte) : Word :=
  (msbFold 0x04C11DB7#32 0xFFFFFFFF#32 bs).reverse ^^^ 0xFFFFFFFF#32

/-! ### Progress -/

/-- The events of an agenda that are not the reset input (R264). -/
def noReset (es : List Event) : Prop := Event.reset ∉ es

/-- The run from `s` has seen the command in flight complete, or stopped at a fault or a refusal, by its `k`-th step. -/
def completesBy (s : State) (k : Nat) : Prop :=
  ∃ n ≤ k, (∃ t, Host.Core.run core n s = .next t ∧ t.phase = .idle ∧ t.done = true) ∨
    (∃ r, Host.Core.run core n s = .fault r) ∨ (∃ r, Host.Core.run core n s = .refused r)

end Sys2Proof.Machine
end

