-- ==== Sys2Proof/Certificates/Slice0/Obligations.lean ====
section
/-! DEFINITION. The statements for the provers. Each says which rule of the spec it formalises; where a clause is the
model's own choice, the docstring names the log entry. -/

open Sys2Proof Sys2Proof.Machine

/-! ### Encodings -/

/-- Decoding the word of a well-formed instruction gives it back, with every bit its row leaves free (30_encoding.md,
R111, R113, R114). -/
def Obligations.DecodeOfEncodeIsIdentity : Prop :=
  ∀ i : Instr, i.wf = true → decodeWord (encode i) = i

/-- Every u32 decodes to a well-formed instruction whose word it is: decoding is total and loses no bit (30_encoding.md,
R111). -/
def Obligations.EncodeOfDecodeIsIdentity : Prop :=
  ∀ w : Word, (decodeWord w).wf = true ∧ encode (decodeWord w) = w

/-- The words of the opcode map and of its reserved rows, written out (30_encoding.md, R113; 44_control.md, R211). -/
def Obligations.ListedWordsDecode : Prop :=
  decodeWord 0x00000000 = .nop ∧ decodeWord 0x00000001 = .parse ∧ decodeWord 0x00000002 = .build ∧
    decodeWord 0x00000003 = .crc ∧ decodeWord 0x00000004 = .vsize ∧ decodeWord 0x00000005 = .vcrc ∧
    decodeWord 0x00000006 = .typechk ∧ decodeWord 0x00000007 = .vdec ∧ decodeWord 0x00000008 = .gate ∧
    decodeWord 0x00000009 = .sealFooter ∧ decodeWord 0x0000000A = .illegalAB 0 ∧ decodeWord 0x0000000B = .illegalAB 1 ∧
    decodeWord 0x0000000C = .illegalCF 0 ∧ decodeWord 0x0000000D = .illegalCF 1 ∧
    decodeWord 0x0000000E = .illegalCF 2 ∧ decodeWord 0x0000000F = .illegalCF 3 ∧
    decodeWord 0x00000011 = .illegalZ 1 1 ∧ decodeWord 0xFFFFFFFF = .illegalZ 0xFFFFFFF 0xF

/-- R114, R211: the opcodes 0xA to 0xF and every word with nonzero bits 31:4 complete with ILLEGAL from every state and no
other effect; STATUS then reads 0x00000092 if REJ = 0. -/
def Obligations.ReservedWordsCompleteWithIllegal : Prop :=
  ∀ (w : Word) (s : State), w.extractLsb' 4 28 ≠ 0 ∨ 10 ≤ w.toNat →
    ∃ t, exec (decodeWord w) s = .next t ∧ t = { s with err := .illegal, phase := .idle, done := true } ∧
      (s.rej = false → statusWord t = 0x00000092)

/-! ### The commands -/

/-- R210: NOP completes with OK from every state and changes nothing else; STATUS then reads 0x00000002 if REJ = 0. -/
def Obligations.NopResult : Prop :=
  decodeWord 0x00000000 = .nop ∧ ∀ s : State, ∃ t, exec .nop s = .next t ∧
    t = { s with err := .ok, phase := .idle, done := true } ∧ (s.rej = false → statusWord t = 0x00000002)

/-- R211: an illegal command completes with ILLEGAL from every state and changes nothing else; STATUS then reads 0x00000092
if REJ = 0. -/
def Obligations.IllegalResult : Prop :=
  ∀ (s : State) (o : BitVec 1) (q : BitVec 2) (z : BitVec 28) (op : BitVec 4),
    ∃ t, t = { s with err := .illegal, phase := .idle, done := true } ∧ exec (.illegalAB o) s = .next t ∧
      exec (.illegalCF q) s = .next t ∧ exec (.illegalZ z op) s = .next t ∧
      (s.rej = false → statusWord t = 0x00000092)

/-- R140: PARSE, every outcome. A = SRC_ADDR and L = SRC_LEN. -/
def Obligations.ParseResult : Prop :=
  decodeWord 0x00000001 = .parse ∧ ∀ (s : State) (A L : Nat), A = s.srcAddr.toNat → L = s.srcLen.toNat →
    (2 ^ 32 < A + L → exec .parse s = .next (s.complete .range)) ∧
    (A + L ≤ 2 ^ 32 → L < 4 → exec .parse s = .next (s.complete .format)) ∧
    (A + L ≤ 2 ^ 32 → 4 ≤ L → ¬ magicAt s.mem (A + L - 4) → exec .parse s = .next (s.complete .format)) ∧
    (A + L ≤ 2 ^ 32 → 4 ≤ L → magicAt s.mem (A + L - 4) → L < 20 → exec .parse s = .next (s.complete .short)) ∧
    (A + L ≤ 2 ^ 32 → 20 ≤ L → magicAt s.mem (A + L - 4) →
      exec .parse s = .next (State.complete
        { s with
          fOsize := wordAt s.mem (A + L - 20)
          fCsize := wordAt s.mem (A + L - 16)
          fCrc := wordAt s.mem (A + L - 12)
          fType := wordAt s.mem (A + L - 8)
          payLen := BitVec.ofNat 32 (L - 20) } .ok))

/-- R143: BUILD, every outcome. D = DST_ADDR; no register but STATUS is written, and no byte outside DST. -/
def Obligations.BuildResult : Prop :=
  decodeWord 0x00000002 = .build ∧ ∀ (s : State) (D : Nat), D = s.dstAddr.toNat →
    (2 ^ 32 < D + 20 → exec .build s = .next (s.complete .range)) ∧
    (D + 20 ≤ 2 ^ 32 → ∃ m, exec .build s = .next (State.complete { s with mem := m } .ok) ∧
      footerIsAt m D s.fOsize s.fCsize s.fCrc s.fType ∧ sameBytesOutside m s.mem D 20)

/-- R162: CRC, every outcome. -/
def Obligations.CrcResult : Prop :=
  decodeWord 0x00000003 = .crc ∧ ∀ (s : State) (A L : Nat), A = s.srcAddr.toNat → L = s.srcLen.toNat →
    (2 ^ 32 < A + L → exec .crc s = .next (s.complete .range)) ∧
    (A + L ≤ 2 ^ 32 → exec .crc s = .next (State.complete { s with crcOut := crc32 (memRead s.mem A L) } .ok))

/-- R163: VSIZE, both outcomes; no memory is touched and SRC_ADDR is not read, so there is no RANGE. -/
def Obligations.VsizeResult : Prop :=
  decodeWord 0x00000004 = .vsize ∧ ∀ s : State, (s.srcLen = s.fCsize → exec .vsize s = .next (s.complete .ok)) ∧
    (s.srcLen ≠ s.fCsize → exec .vsize s = .next (s.complete .size))

/-- R164: VCRC, every outcome; CRC_OUT is written whether or not it matches. -/
def Obligations.VcrcResult : Prop :=
  decodeWord 0x00000005 = .vcrc ∧
  ∀ (s : State) (A L : Nat) (c : Word), A = s.srcAddr.toNat → L = s.srcLen.toNat → c = crc32 (memRead s.mem A L) →
    (2 ^ 32 < A + L → exec .vcrc s = .next (s.complete .range)) ∧
    (A + L ≤ 2 ^ 32 → c = s.fCrc → exec .vcrc s = .next (State.complete { s with crcOut := c } .ok)) ∧
    (A + L ≤ 2 ^ 32 → c ≠ s.fCrc → exec .vcrc s = .next (State.complete { s with crcOut := c } .checksum))

/-- R180: TYPECHK, every outcome; CLASS is NONE on an error. -/
def Obligations.TypechkResult : Prop :=
  decodeWord 0x00000006 = .typechk ∧ ∀ s : State,
    (s.fType = 0 → s.fOsize = s.fCsize → exec .typechk s = .next (State.complete { s with cls := .stored } .ok)) ∧
    (s.fType = 0 → s.fOsize ≠ s.fCsize →
      exec .typechk s = .next (State.complete { s with cls := .noClass } .storedSize)) ∧
    (s.fType = 1 ∨ s.fType = 2 → exec .typechk s = .next (State.complete { s with cls := .lz4 } .ok)) ∧
    (2 < s.fType.toNat → exec .typechk s = .next (State.complete { s with cls := .noClass } .unknownType))

/-- R181: VDEC, both outcomes; the failure signal 0xFFFFFFFF wins over an equal F_OSIZE (R125). -/
def Obligations.VdecResult : Prop :=
  decodeWord 0x00000007 = .vdec ∧ ∀ s : State,
    (s.lz4Res.toNat < 2 ^ 32 - 1 → s.lz4Res = s.fOsize → exec .vdec s = .next (s.complete .ok)) ∧
    (s.lz4Res.toNat = 2 ^ 32 - 1 ∨ s.lz4Res ≠ s.fOsize → exec .vdec s = .next (s.complete .decodedSize))

/-- R182: GATE, every outcome. It writes CLASS = NONE and stops at the first failing check of its parse. Past the parse the
footer registers and PAY_LEN are written (`p`), then the size, the checksum and the type are checked in that order; CRC_OUT
is written once the checksum step runs, CLASS on success. -/
def Obligations.GateResult : Prop :=
  decodeWord 0x00000008 = .gate ∧
  ∀ (s : State) (A L : Nat), A = s.srcAddr.toNat → L = s.srcLen.toNat →
    (2 ^ 32 < A + L → exec .gate s = .next (State.complete { s with cls := .noClass } .range)) ∧
    (A + L ≤ 2 ^ 32 → L < 4 → exec .gate s = .next (State.complete { s with cls := .noClass } .format)) ∧
    (A + L ≤ 2 ^ 32 → 4 ≤ L → ¬ magicAt s.mem (A + L - 4) →
      exec .gate s = .next (State.complete { s with cls := .noClass } .format)) ∧
    (A + L ≤ 2 ^ 32 → 4 ≤ L → magicAt s.mem (A + L - 4) → L < 20 →
      exec .gate s = .next (State.complete { s with cls := .noClass } .short)) ∧
    ∀ (p : State) (c : Word), A + L ≤ 2 ^ 32 → 20 ≤ L → magicAt s.mem (A + L - 4) →
      p = { s with
        cls := .noClass
        fOsize := wordAt s.mem (A + L - 20)
        fCsize := wordAt s.mem (A + L - 16)
        fCrc := wordAt s.mem (A + L - 12)
        fType := wordAt s.mem (A + L - 8)
        payLen := BitVec.ofNat 32 (L - 20) } →
      c = crc32 (memRead s.mem A (L - 20)) →
      (L - 20 ≠ p.fCsize.toNat → exec .gate s = .next (p.complete .size)) ∧
      (L - 20 = p.fCsize.toNat → c ≠ p.fCrc →
        exec .gate s = .next (State.complete { p with crcOut := c } .checksum)) ∧
      (L - 20 = p.fCsize.toNat → c = p.fCrc → p.fType = 0 → p.fOsize ≠ p.fCsize →
        exec .gate s = .next (State.complete { p with crcOut := c } .storedSize)) ∧
      (L - 20 = p.fCsize.toNat → c = p.fCrc → p.fType = 0 → p.fOsize = p.fCsize →
        exec .gate s = .next (State.complete { p with crcOut := c, cls := .stored } .ok)) ∧
      (L - 20 = p.fCsize.toNat → c = p.fCrc → p.fType = 1 ∨ p.fType = 2 →
        exec .gate s = .next (State.complete { p with crcOut := c, cls := .lz4 } .ok)) ∧
      (L - 20 = p.fCsize.toNat → c = p.fCrc → 2 < p.fType.toNat →
        exec .gate s = .next (State.complete { p with crcOut := c } .unknownType))

/-- R200: SEAL, every outcome. The CRC is of SRC as it was before any byte of DST is written, also where they overlap
(R88); no byte outside DST is written. -/
def Obligations.SealResult : Prop :=
  decodeWord 0x00000009 = .sealFooter ∧
  ∀ (s : State) (A L D : Nat) (c : Word), A = s.srcAddr.toNat → L = s.srcLen.toNat → D = s.dstAddr.toNat →
    c = crc32 (memRead s.mem A L) →
    (2 ^ 32 < A + L ∨ 2 ^ 32 < D + 20 → exec .sealFooter s = .next (s.complete .range)) ∧
    (A + L ≤ 2 ^ 32 → D + 20 ≤ 2 ^ 32 → ∃ m,
      exec .sealFooter s =
        .next (State.complete { s with crcOut := c, fCrc := c, fCsize := s.srcLen, mem := m } .ok) ∧
      footerIsAt m D s.fOsize s.srcLen c s.fType ∧ sameBytesOutside m s.mem D 20)

/-! ### All commands -/

/-- R60, R230: every command completes from every state, by success or error, in one step: BUSY to 0, DONE to 1, ERR one of
the codes its own rule raises (R231); REJ keeps its value (R42). -/
def Obligations.EveryCommandCompletes : Prop :=
  ∀ (i : Instr) (s : State), ∃ t, exec i s = .next t ∧ t.phase = .idle ∧ t.done = true ∧ t.err ∈ outcomes i ∧
    t.rej = s.rej

/-- R231, the other way round: each code of a command's row is one it can complete with. -/
def Obligations.EveryListedCodeIsRaised : Prop :=
  ∀ i : Instr, ∀ e ∈ outcomes i, ∃ s t, exec i s = .next t ∧ t.err = e

/-- R62: a command writes no register outside its row, which `writtenRegs` gives for each outcome, and memory only in the
rows of BUILD and SEAL; STATUS.REJ, the word of the command, the platform and the model's own fields stay too. -/
def Obligations.CommandsWriteOnlyTheirRegisters : Prop :=
  ∀ (i : Instr) (s t : State), exec i s = .next t →
    (∀ r, r ≠ .status → r ∉ writtenRegs i t.err → readReg r t = readReg r s) ∧
      (writesDst i = false ∨ t.err ≠ .ok → t.mem = s.mem) ∧ t.rej = s.rej ∧ t.cmdword = s.cmdword ∧
      t.agenda = s.agenda ∧ t.reply = s.reply ∧ t.draws = s.draws ∧ t.proven = s.proven ∧ t.memKind = s.memKind

/-- R82, R232: the only bytes a command changes are those of DST, by BUILD and SEAL, and only when it completes with OK;
every other byte reads as before. -/
def Obligations.CommandsStoreOnlyIntoDst : Prop :=
  ∀ (i : Instr) (s t : State), exec i s = .next t → ∀ a,
    ¬ (writesDst i = true ∧ t.err = .ok ∧ s.dst.contains a = true) → Memory.read t.mem a = Memory.read s.mem a

/-- R67, R124: the outcome, the registers written and the bytes stored depend on nothing but the registers the command
reads and the bytes of SRC. -/
def Obligations.ResultsDependOnlyOnInputs : Prop :=
  ∀ (i : Instr) (s s' t t' : State), sameInputs i s s' → exec i s = .next t → exec i s' = .next t' →
    t.err = t'.err ∧ (∀ r ∈ writtenRegs i t.err, readReg r t = readReg r t') ∧
      (writesDst i = true → t.err = .ok → sameBytes t.mem t'.mem s.dstAddr.toNat 20)

/-- R183: GATE computes what PARSE; VSIZE on SRC_LEN = L - 20; VCRC on (A, L - 20); TYPECHK compute, stopping at the first
error, with SRC_LEN left unchanged and CLASS = NONE when it stops early. -/
def Obligations.GateEqualsItsParts : Prop :=
  ∀ s : State, exec .gate s = restoreSrcLen s.srcLen (gateSequence s)

/-- R145: a PARSE of a region that ends with the footer BUILD wrote, its bytes unchanged since, restores the four fields
and sets PAY_LEN to the number of bytes before the footer. -/
def Obligations.BuildThenParseRestoresFields : Prop :=
  ∀ (s t u : State) (p : Nat), s.dstAddr.toNat + 20 ≤ 2 ^ 32 → exec .build s = .next t →
    sameBytes u.mem t.mem s.dstAddr.toNat 20 → p ≤ s.dstAddr.toNat → u.srcAddr.toNat = s.dstAddr.toNat - p →
    u.srcLen.toNat = p + 20 →
    exec .parse u = .next (State.complete
      { u with
        fOsize := s.fOsize, fCsize := s.fCsize, fCrc := s.fCrc, fType := s.fType, payLen := BitVec.ofNat 32 p } .ok)

/-- R145, conversely: BUILD after a successful PARSE writes back the 20 bytes PARSE read, at any DST in range. -/
def Obligations.ParseThenBuildRewritesFooter : Prop :=
  ∀ (s t u : State), exec .parse s = .next t → t.err = .ok → u.fOsize = t.fOsize → u.fCsize = t.fCsize →
    u.fCrc = t.fCrc → u.fType = t.fType → u.dstAddr.toNat + 20 ≤ 2 ^ 32 →
    ∃ v, exec .build u = .next v ∧ v.err = .ok ∧ ∀ i < 20,
      Memory.read v.mem (u.dstAddr.toNat + i) = Memory.read s.mem (s.srcAddr.toNat + s.srcLen.toNat - 20 + i)

/-- R201: a container that SEAL closed (DST right after SRC) passes GATE's magic, size and checksum steps; its type step
passes unless the type is 0 with unequal sizes, or not 0, 1 or 2. -/
def Obligations.SealedContainerPassesGate : Prop :=
  ∀ (s t u : State), s.dstAddr.toNat = s.srcAddr.toNat + s.srcLen.toNat → s.dstAddr.toNat + 20 ≤ 2 ^ 32 →
    exec .sealFooter s = .next t → sameBytes u.mem t.mem s.srcAddr.toNat (s.srcLen.toNat + 20) →
    u.srcAddr = s.srcAddr → u.srcLen.toNat = s.srcLen.toNat + 20 →
    ∃ v, exec .gate u = .next v ∧ v.fOsize = s.fOsize ∧ v.fCsize = s.srcLen ∧ v.fCrc = t.crcOut ∧
      v.fType = s.fType ∧ v.payLen = s.srcLen ∧ v.crcOut = t.crcOut ∧
      (s.fType = 0 → s.fOsize = s.srcLen → v.err = .ok ∧ v.cls = .stored) ∧
      (s.fType = 0 → s.fOsize ≠ s.srcLen → v.err = .storedSize ∧ v.cls = .noClass) ∧
      (s.fType = 1 ∨ s.fType = 2 → v.err = .ok ∧ v.cls = .lz4) ∧
      (2 < s.fType.toNat → v.err = .unknownType ∧ v.cls = .noClass)

/-! ### The CRC -/

/-- R161's fact about the variant of R8: a one-bit change anywhere in a byte sequence changes its CRC32 (the spec takes it
from general knowledge, G4). -/
def Obligations.OneFlippedBitChangesTheCrc : Prop :=
  ∀ (xs ys : List Byte) (b : Byte) (k : Nat), k < 8 →
    crc32 (xs ++ b :: ys) ≠ crc32 (xs ++ (b ^^^ (1#8 <<< k)) :: ys)

/-- The source's checksum-gate property (41_integrity.md R161; 95_test_vectors.md V5): a container that passes the checksum
step fails it, with CHECKSUM and CLASS = NONE, after any one bit of its payload is flipped. -/
def Obligations.FlippedPayloadBitFailsTheGate : Prop :=
  ∀ (s t u : State) (x k : Nat), exec .gate s = .next t →
    t.err = .ok ∨ t.err = .storedSize ∨ t.err = .unknownType → u.srcAddr = s.srcAddr → u.srcLen = s.srcLen →
    s.srcAddr.toNat ≤ x → x < s.srcAddr.toNat + (s.srcLen.toNat - 20) → k < 8 →
    Memory.read u.mem x = Memory.read s.mem x ^^^ (1#8 <<< k) →
    (∀ a, s.srcAddr.toNat ≤ a → a < s.srcAddr.toNat + s.srcLen.toNat → a ≠ x →
      Memory.read u.mem a = Memory.read s.mem a) →
    ∃ v, exec .gate u = .next v ∧ v.err = .checksum ∧ v.cls = .noClass ∧ v.fCrc = t.fCrc ∧ v.crcOut ≠ v.fCrc

/-- R161's values of the CRC32 of R160: the empty sequence, "123456789" (the published check value, G3), one zero byte,
"a". -/
def Obligations.CrcKnownValues : Prop :=
  crc32 [] = 0x00000000 ∧
    crc32 [0x31#8, 0x32#8, 0x33#8, 0x34#8, 0x35#8, 0x36#8, 0x37#8, 0x38#8, 0x39#8] = 0xCBF43926 ∧
    crc32 [0x00#8] = 0xD202EF8D ∧ crc32 [0x61#8] = 0xE8B7BE43

/-- The bitwise algorithm of R160 is the CRC whose parameters R8 names: polynomial 0x04C11DB7, input and output reflected,
initial value and final XOR 0xFFFFFFFF. -/
def Obligations.CrcEqualsReflectedForm : Prop :=
  ∀ bs : List Byte, crc32 bs = crc32Reflected bs

/-! ### The register bus -/

/-- R55: while BUSY a write to CMD or to an argument register is rejected: the register keeps its value, no command is
issued, REJ is set, nothing else changes. So while a command stays in flight its word and the argument registers hold
their values, whatever step is taken. -/
def Obligations.BusyWritesAreRejected : Prop :=
  (∀ (s : State) (rest : List Event) (r : Reg) (v : Word), s.phase = .busy → r = .cmd ∨ r ∈ argumentRegs →
    step (s.setAgenda (wr r v :: rest)) = .next { s.setAgenda rest with rej := true }) ∧
  (∀ s t : State, s.phase = .busy → step s = .next t → t.phase = .busy →
    t.cmdword = s.cmdword ∧ ∀ r ∈ argumentRegs, readReg r t = readReg r s)

/-- R61: while a command stays in flight, whatever step is taken, every register but CTRL and STATUS reads as before, and
STATUS changes in REJ only: ERR keeps the previous command's code and DONE, once 0, reads 0. -/
def Obligations.BusyReadsGiveValuesFromIssue : Prop :=
  ∀ s t : State, s.phase = .busy → step s = .next t → t.phase = .busy →
    t.cmdword = s.cmdword ∧ t.err = s.err ∧ (s.done = false → t.done = false) ∧
      ∀ r, r ≠ .ctrl → r ≠ .status → readReg r t = readReg r s

/-- R56: a write to MAGIC, CRC_OUT, PAY_LEN, CLASS or offset 0x3C is ignored at any time and does not set REJ. -/
def Obligations.ReadOnlyWritesAreIgnored : Prop :=
  ∀ (s : State) (rest : List Event) (r : Reg) (v : Word), r ∈ readOnlyRegs →
    step (s.setAgenda (wr r v :: rest)) = .next (s.setAgenda rest)

/-- R57 with R37 and R39: a write to CTRL or STATUS is applied in every phase: CTRL stores bit 0 as IE; STATUS clears DONE
and REJ where bits 1 and 2 of the word are 1; nothing else changes. -/
def Obligations.ControlAndStatusWritesApply : Prop :=
  ∀ (s : State) (rest : List Event) (v : Word),
    step (s.setAgenda (wr .ctrl v :: rest)) = .next { s.setAgenda rest with ie := v.getLsbD 0 } ∧
    step (s.setAgenda (wr .status v :: rest)) =
      .next { s.setAgenda rest with done := s.done && !v.getLsbD 1, rej := s.rej && !v.getLsbD 2 }

/-- R39: the layout of STATUS as the host reads it, and that only DONE and REJ answer to a write of it. -/
def Obligations.StatusRegisterLayout : Prop :=
  ∀ s : State,
    ((statusWord s).getLsbD 0 = true ↔ s.phase = .busy) ∧ (statusWord s).getLsbD 1 = s.done ∧
    (statusWord s).getLsbD 2 = s.rej ∧ (statusWord s).getLsbD 3 = false ∧
    (statusWord s).extractLsb' 4 4 = errCode s.err ∧ (statusWord s).extractLsb' 8 24 = 0 ∧ statusWord State.reset = 0 ∧
    ∀ (rest : List Event) (v : Word), ∃ t, step (s.setAgenda (wr .status v :: rest)) = .next t ∧
      ∀ k, (statusWord t).getLsbD k = ((statusWord s).getLsbD k && !((k == 1 || k == 2) && v.getLsbD k))

/-- R34, RW: while idle a write to an argument register stores all 32 bits, and every other register, memory and REJ keep
their values. -/
def Obligations.IdleArgumentWritesStore : Prop :=
  ∀ (s : State) (rest : List Event) (r : Reg) (v : Word), s.phase = .idle → r ∈ argumentRegs →
    ∃ t, step (s.setAgenda (wr r v :: rest)) = .next t ∧ readReg r t = v ∧
      (∀ q, q ≠ r → readReg q t = readReg q s) ∧ t.mem = s.mem ∧ t.phase = .idle ∧ t.agenda = rest

/-- R59: a write of `w` to CMD while idle puts `w` in flight, sets BUSY, clears DONE, and changes nothing else. -/
def Obligations.CmdWriteIssues : Prop :=
  ∀ (s : State) (rest : List Event) (w : Word), s.phase = .idle →
    step (s.setAgenda (wr .cmd w :: rest)) =
      .next { s.setAgenda rest with cmdword := w, phase := .busy, done := false }

/-- R35 to R38, R54, R94: a register read returns the register's word and has no side effect; MAGIC is constant, CMD and
offset 0x3C read 0, CTRL reads IE in bit 0, CLASS its code. The reply field is the model's own (log entry 5). -/
def Obligations.RegisterReadsReturnValues : Prop :=
  ∀ (s : State) (rest : List Event) (r : Reg),
    step (s.setAgenda (rd r :: rest)) = .next { s.setAgenda rest with reply := .reg (readReg r s) } ∧
    readReg .magic s = 0x4C505644 ∧ readReg .cmd s = 0 ∧ readReg .reserved s = 0 ∧
    readReg .ctrl s = (if s.ie then 1 else 0) ∧ (readReg .cls s = 0 ↔ s.cls = .noClass) ∧
    (readReg .cls s = 1 ↔ s.cls = .stored) ∧ (readReg .cls s = 2 ↔ s.cls = .lz4)

/-- R35, R89: a register access that is not 32 bits wide or not aligned is refused. -/
def Obligations.UndefinedAccessIsRefused : Prop :=
  ∀ (s : State) (rest : List Event) (off bytes : Nat) (v : Word), bytes ≠ 4 ∨ off % 4 ≠ 0 →
    step (s.setAgenda (.regRead off bytes :: rest)) = .refused .undefinedRegisterAccess ∧
    step (s.setAgenda (.regWrite off bytes v :: rest)) = .refused .undefinedRegisterAccess

/-- The window is the sixteen registers of R33 at their offsets, each at an address of its own, and nothing else: an
aligned 32-bit read or write at 0x40 or above is refused (R32; the refusal is the model's choice, log entry 9). -/
def Obligations.WindowHoldsSixteenRegisters : Prop :=
  (∀ r q, busAddress r = busAddress q → r = q) ∧ (∀ r, regAt (regOffset r) = some r) ∧
    (∀ off, off < 64 → off % 4 = 0 → ∃ r, regOffset r = off) ∧
    ∀ (s : State) (rest : List Event) (off : Nat) (v : Word), 64 ≤ off → off % 4 = 0 →
      step (s.setAgenda (.regRead off 4 :: rest)) = .refused .outsideWindow ∧
      step (s.setAgenda (.regWrite off 4 v :: rest)) = .refused .outsideWindow

/-! ### The machine as a whole -/

/-- The unit's turn: the completion of the command in flight, from the empty agenda too. It is exec of the decoded word,
and then the model's note of the containers a GATE covers and a store uncovers (R60; log entries 3, 4, 7). A command whose
regions do not lie in ordinary memory is refused there instead: `NonOrdinaryPlacementIsRefused` (R95; log entry 13). -/
def Obligations.StepCompletesTheCommandInFlight : Prop :=
  (∀ (s t : State) (rest : List Event), s.phase = .busy → s.misplaced (decodeWord s.cmdword) = false →
    exec (decodeWord s.cmdword) (s.setAgenda rest) = .next t →
    step (s.setAgenda (.unit :: rest)) = .next (noteCompletion (decodeWord s.cmdword) t) ∧
      (rest = [] → step (s.setAgenda []) = .next (noteCompletion (decodeWord s.cmdword) t))) ∧
  (∀ (s t : State) (w : Word), s.misplaced (decodeWord w) = false → exec (decodeWord w) (s.issue w) = .next t →
    step (s.withFetchWord 32 w.toNat) = .next (noteCompletion (decodeWord w) t)) ∧
  (∀ (i : Instr) (t : State), noteCompletion i t = { t with
    proven :=
      if i = .gate ∧ t.err = .ok then t.proven.insert ⟨t.srcAddr, t.srcLen, t.cls⟩
      else if writesDst i = true ∧ t.err = .ok then t.proven.filter (fun p => !p.region.overlaps t.dst)
      else t.proven })

/-- R243: an idle unit keeps every register; its turn, and the empty agenda, change nothing. -/
def Obligations.IdleUnitKeepsItsState : Prop :=
  ∀ (s : State) (rest : List Event), s.phase = .idle →
    step (s.setAgenda []) = .next (s.setAgenda []) ∧
    step (s.setAgenda (.unit :: rest)) = .next (s.setAgenda rest)

/-- R43: STATUS.ERR changes only by completion, and by reset, which sets it to 0; its code is never 10 to 15. -/
def Obligations.ErrChangesOnlyByCompletionOrReset : Prop :=
  ∀ s t : State, step s = .next t →
    (errCode t.err).toNat ≤ 9 ∧
    (t.err ≠ s.err →
      (s.phase = .busy ∧ (s.agenda = [] ∨ ∃ rest, s.agenda = .unit :: rest) ∧
        t.err ∈ outcomes (decodeWord s.cmdword)) ∨
      (∃ rest, s.agenda = .reset :: rest) ∧ t.err = .ok)

/-- R42: REJ is set by a rejected write and by nothing else, and cleared by a write of STATUS with bit 2 = 1 and by reset and
by nothing else, so no issue or completion changes it; the step that sets it keeps STATUS.ERR. -/
def Obligations.RejChangesExactlyAsListed : Prop :=
  ∀ s t : State, step s = .next t →
    (s.rej = false → (t.rej = true ↔
      s.phase = .busy ∧ ∃ r v rest, s.agenda = wr r v :: rest ∧ (r = .cmd ∨ r ∈ argumentRegs))) ∧
    (s.rej = true → (t.rej = false ↔
      (∃ v rest, s.agenda = wr .status v :: rest ∧ v.getLsbD 2 = true) ∨ ∃ rest, s.agenda = .reset :: rest)) ∧
    (s.rej = false → t.rej = true → t.err = s.err)

/-- R40: BUSY is set by an issue and cleared by completion and by reset, and by nothing else; it reads 1 exactly when the
phase is BUSY. The completion is the unit's turn, or the step of the empty agenda (log entry 3). -/
def Obligations.BusyChangesExactlyAsListed : Prop :=
  ∀ s t : State, step s = .next t →
    (s.phase = .idle → (t.phase = .busy ↔ ∃ w rest, s.agenda = wr .cmd w :: rest)) ∧
    (s.phase = .busy → (t.phase = .idle ↔
      s.agenda = [] ∨ (∃ rest, s.agenda = .unit :: rest) ∨ ∃ rest, s.agenda = .reset :: rest)) ∧
    ((readReg .status t).getLsbD 0 = true ↔ t.phase = .busy)

/-- R41: DONE is set by completion and by nothing else, and cleared by an issue, by a write of STATUS with bit 1 = 1 and by
reset, and by nothing else. -/
def Obligations.DoneChangesExactlyAsListed : Prop :=
  ∀ s t : State, step s = .next t →
    (s.done = false → (t.done = true ↔ s.phase = .busy ∧ (s.agenda = [] ∨ ∃ rest, s.agenda = .unit :: rest))) ∧
    (s.done = true → (t.done = false ↔
      (s.phase = .idle ∧ ∃ w rest, s.agenda = wr .cmd w :: rest) ∨
        (∃ v rest, s.agenda = wr .status v :: rest ∧ v.getLsbD 1 = true) ∨ ∃ rest, s.agenda = .reset :: rest))

/-- R51, R53, R54, R56: no host step changes CRC_OUT, PAY_LEN or CLASS; only completion and reset do. -/
def Obligations.ResultRegistersChangeOnlyByCompletion : Prop :=
  ∀ s t : State, step s = .next t → t.crcOut ≠ s.crcOut ∨ t.payLen ≠ s.payLen ∨ t.cls ≠ s.cls →
    (s.phase = .busy ∧ (s.agenda = [] ∨ ∃ rest, s.agenda = .unit :: rest)) ∨ ∃ rest, s.agenda = .reset :: rest

/-- R236: irq is the level CTRL.IE and STATUS.DONE: after a completion it is IE; an issue, a write of STATUS with bit 1 = 1,
a write of CTRL with bit 0 = 0 (DONE kept) and reset clear it. -/
def Obligations.IrqIsALevel : Prop :=
  ∀ s : State, (irq s = true ↔ readReg .ctrl s = 1 ∧ (readReg .status s).getLsbD 1 = true) ∧
    (∀ (i : Instr) (t : State), exec i s = .next t → irq t = s.ie) ∧
    ∀ (rest : List Event) (v : Word) (t : State),
      (s.phase = .idle → step (s.setAgenda (wr .cmd v :: rest)) = .next t → irq t = false) ∧
      (v.getLsbD 1 = true → step (s.setAgenda (wr .status v :: rest)) = .next t → irq t = false) ∧
      (v.getLsbD 0 = false → step (s.setAgenda (wr .ctrl v :: rest)) = .next t → irq t = false ∧ t.done = s.done) ∧
      (step (s.setAgenda (.reset :: rest)) = .next t → irq t = false)

/-! ### Buffer memory and the host -/

/-- R100, R267: a write by another agent to a byte of SRC of an in-flight command that reads SRC is the fault
SrcWrittenWhileBusy. -/
def Obligations.SrcWriteWhileBusyFaults : Prop :=
  ∀ (s : State) (rest : List Event) (a : Word) (b : Byte), s.phase = .busy → readsSrc (decodeWord s.cmdword) = true →
    s.srcAddr.toNat ≤ a.toNat → a.toNat < s.srcAddr.toNat + s.srcLen.toNat →
    step (s.setAgenda (.memWrite a b :: rest)) = .fault .srcWrittenWhileBusy

/-- R101, R268: while BUILD or SEAL is in flight, a host read of a byte of DST returns some byte, and a host write to it is
the fault DstWrittenWhileBusy (SrcWrittenWhileBusy where the byte is one of SEAL's SRC too: log entry 8). -/
def Obligations.DstAccessWhileBusy : Prop :=
  ∀ (s : State) (rest : List Event) (a : Word) (b : Byte), s.phase = .busy → writesDst (decodeWord s.cmdword) = true →
    s.dstAddr.toNat ≤ a.toNat → a.toNat < s.dstAddr.toNat + 20 →
    (∃ x, step (s.setAgenda (.memRead a :: rest)) =
      .next { s.setAgenda rest with reply := .byte x, draws := s.draws + 1 }) ∧
    (readsSrc (decodeWord s.cmdword) = false ∨ ¬ (s.srcAddr.toNat ≤ a.toNat ∧
        a.toNat < s.srcAddr.toNat + s.srcLen.toNat) →
      step (s.setAgenda (.memWrite a b :: rest)) = .fault .dstWrittenWhileBusy) ∧
    (readsSrc (decodeWord s.cmdword) = true → s.srcAddr.toNat ≤ a.toNat →
      a.toNat < s.srcAddr.toNat + s.srcLen.toNat →
      step (s.setAgenda (.memWrite a b :: rest)) = .fault .srcWrittenWhileBusy)

/-- R81, R102: outside the regions of an in-flight command, in ordinary memory (log entry 13), a host read returns the byte
memory holds, and a host write changes that byte and no other, and no register. -/
def Obligations.HostMemoryAccess : Prop :=
  ∀ (s : State) (rest : List Event) (a : Word) (b : Byte), s.nonOrdinary a.toNat = false →
    (s.dstBusy a.toNat = false →
      step (s.setAgenda (.memRead a :: rest)) =
        .next { s.setAgenda rest with reply := .byte (Memory.read s.mem a.toNat) }) ∧
    (s.srcBusy a.toNat = false → s.dstBusy a.toNat = false →
      ∃ t, step (s.setAgenda (.memWrite a b :: rest)) = .next t ∧ Memory.read t.mem a.toNat = b ∧
        sameBytesOutside t.mem s.mem a.toNat 1 ∧ (∀ r, readReg r t = readReg r s) ∧ t.phase = s.phase ∧
        t.cmdword = s.cmdword ∧ t.agenda = rest)

/-- R260, R261, R262: reset sets every register but MAGIC to 0 and the phase to IDLE and leaves buffer memory unchanged,
except that the bytes of DST of an aborted BUILD or SEAL are unspecified. -/
def Obligations.ResetStepResult : Prop :=
  ∀ (s : State) (rest : List Event), ∃ t, step (s.setAgenda (.reset :: rest)) = .next t ∧
    (∀ r, r ≠ .magic → readReg r t = 0) ∧ readReg .magic t = 0x4C505644 ∧ t.phase = .idle ∧ irq t = false ∧
    t.agenda = rest ∧
    (s.phase = .idle ∨ writesDst (decodeWord s.cmdword) = false → t.mem = s.mem) ∧
    sameBytesOutside t.mem s.mem s.dstAddr.toNat 20

/-- The machine right after reset (R63). What buffer memory holds there the spec leaves unspecified (I5); that every byte is
the free one of its address is the model's choice (log entry 2). -/
def Obligations.ResetValues : Prop :=
  (∀ r, r ≠ .magic → readReg r State.reset = 0) ∧ readReg .magic State.reset = 0x4C505644 ∧
    State.reset.phase = .idle ∧ State.reset.cls = .noClass ∧ State.reset.err = .ok ∧ irq State.reset = false ∧
    ∀ a, Memory.read State.reset.mem a = Config.powerUpByte a

/-- R264: a command in flight completes after finitely many other steps, unless a reset comes first or the run stops at a
fault or a refusal. The bound, one step for each entry of the agenda and one more, is the model's choice: the agenda holds
the other agents' steps (log entry 3), and a `wait` gives the unit its turn (log entry 11). -/
def Obligations.CommandInFlightCompletes : Prop :=
  ∀ s : State, s.phase = .busy → noReset s.agenda → completesBy s (s.agenda.length + 1)

/-- R127: `wait` reads STATUS and is done when BUSY reads 0; otherwise the host polls again, after the unit's turn (log
entry 11). -/
def Obligations.WaitPollsUntilIdle : Prop :=
  ∀ (s : State) (rest : List Event),
    (s.phase = .idle → step (s.setAgenda (.wait :: rest)) =
      .next { s.setAgenda rest with reply := .reg (statusWord s) }) ∧
    (s.phase = .busy → step (s.setAgenda (.wait :: rest)) =
      .next { s.setAgenda (.unit :: .wait :: rest) with reply := .reg (statusWord s) })

/-- Every step keeps the invariant: memory in its canonical form, DONE = 0 while BUSY (R40, R41), and every container the
host may use still passing the gate (R185, R269; the list of containers is the model's own, log entry 7). -/
def Obligations.StepKeepsTheInvariant : Prop :=
  ∀ s t : State, Inv s → step s = .next t → Inv t

/-- The invariant holds right after reset. -/
def Obligations.ResetMeetsTheInvariant : Prop := Inv State.reset

/-- R185, R269, I22: the host's use of a payload goes on only when the container, as it stands in memory, passes every
check of the gate with the class the host relies on; without a passing GATE it is a fault (log entry 7). -/
def Obligations.PayloadUseIsGuarded : Prop :=
  ∀ (s : State) (rest : List Event) (p : Proven),
    (∀ t, Inv s → step (s.setAgenda (.usePayload p :: rest)) = .next t →
      p.holds s.mem ∧ t = (s.setAgenda rest)) ∧
    (p ∉ s.proven → step (s.setAgenda (.usePayload p :: rest)) = .fault .payloadNotProven)

/-- R184, R185: after a GATE that completes with OK, at the unit's turn or at the step of the empty agenda, the host may
use its payload, with the class GATE reported. The container stays covered through every later step but one that writes a
byte of it: a write by another agent, or a BUILD or SEAL over it that completes with OK or is aborted by reset. A covered
container may be used unless a BUILD or SEAL is in flight over it (R101). The list of covered containers is the model's own
(log entry 7). -/
def Obligations.PassingGateAllowsUse : Prop :=
  (∀ (s t : State) (es : List Event), s.phase = .busy → decodeWord s.cmdword = .gate →
    s.agenda = [] ∨ (∃ rest, s.agenda = .unit :: rest) → step s = .next t → t.err = .ok →
    ⟨s.srcAddr, s.srcLen, t.cls⟩ ∈ t.proven ∧
      step (t.setAgenda (.usePayload ⟨s.srcAddr, s.srcLen, t.cls⟩ :: es)) = .next (t.setAgenda es)) ∧
  (∀ (s t : State) (p : Proven), p ∈ s.proven → step s = .next t → p ∉ t.proven →
    (∃ a b rest, s.agenda = .memWrite a b :: rest ∧ p.region.contains a.toNat = true) ∨
    (s.phase = .busy ∧ writesDst (decodeWord s.cmdword) = true ∧ p.region.overlaps s.dst = true ∧
      ((s.agenda = [] ∨ ∃ rest, s.agenda = .unit :: rest) ∧ t.err = .ok ∨ ∃ rest, s.agenda = .reset :: rest))) ∧
  ∀ (s : State) (es : List Event) (p : Proven), p ∈ s.proven →
    s.phase = .idle ∨ writesDst (decodeWord s.cmdword) = false ∨ p.region.overlaps s.dst = false →
    step (s.setAgenda (.usePayload p :: es)) = .next (s.setAgenda es)

/-- R58, I20: `cmdword` is not observable while idle: from two idle states that differ only in it, a step gives results
that differ only in it, and not at all once a command is in flight. -/
def Obligations.CmdwordIsHiddenWhileIdle : Prop :=
  ∀ (s : State) (w : Word), s.phase = .idle →
    (∀ t, step s = .next t → ∃ w', step (s.setCmdword w) = .next (t.setCmdword w') ∧
      (t.phase = .busy → w' = t.cmdword)) ∧
    (∀ r, step s = .fault r → step (s.setCmdword w) = .fault r) ∧
    (∀ r, step s = .refused r → step (s.setCmdword w) = .refused r)

/-- R80, R95, I8: the platform's device windows and holes (MEM_KIND; held in `memKind`, log entry 13). The completion of a
command that accesses a byte there is refused, and of any other it goes on; so a command that touches no memory, or one of
whose regions is out of range (it accesses nothing, R84), always goes on. A host access to such a byte is refused where no
rule of R100 or R101 comes first. No step changes the platform. -/
def Obligations.NonOrdinaryPlacementIsRefused : Prop :=
  (∀ (s : State) (rest : List Event), s.phase = .busy →
    ((∃ x, s.nonOrdinary x = true ∧ accessesByte (decodeWord s.cmdword) s x) →
      step (s.setAgenda (.unit :: rest)) = .refused .nonOrdinaryMemory ∧
      step (s.setAgenda []) = .refused .nonOrdinaryMemory) ∧
    ((∀ x, s.nonOrdinary x = true → ¬ accessesByte (decodeWord s.cmdword) s x) →
      (∃ t, step (s.setAgenda (.unit :: rest)) = .next t) ∧ ∃ t, step (s.setAgenda []) = .next t)) ∧
  (∀ (s : State) (rest : List Event) (a : Word) (b : Byte), s.nonOrdinary a.toNat = true → s.dstBusy a.toNat = false →
    step (s.setAgenda (.memRead a :: rest)) = .refused .nonOrdinaryMemory ∧
    (s.srcBusy a.toNat = false → step (s.setAgenda (.memWrite a b :: rest)) = .refused .nonOrdinaryMemory)) ∧
  ∀ s t : State, step s = .next t → t.memKind = s.memKind
end

