-- ==== Sys2Proof/Laws/State.lean ====
section
/-! SUPPORT. One lemma for each field and each named update of State, so that no proof unfolds a record update. -/

namespace Sys2Proof.Machine

section
variable (s : State) (c : PayloadClass)
@[simp] theorem State.setCls_ie : (s.setCls c).ie = s.ie := rfl
@[simp] theorem State.setCls_done : (s.setCls c).done = s.done := rfl
@[simp] theorem State.setCls_rej : (s.setCls c).rej = s.rej := rfl
@[simp] theorem State.setCls_err : (s.setCls c).err = s.err := rfl
@[simp] theorem State.setCls_srcAddr : (s.setCls c).srcAddr = s.srcAddr := rfl
@[simp] theorem State.setCls_srcLen : (s.setCls c).srcLen = s.srcLen := rfl
@[simp] theorem State.setCls_dstAddr : (s.setCls c).dstAddr = s.dstAddr := rfl
@[simp] theorem State.setCls_fOsize : (s.setCls c).fOsize = s.fOsize := rfl
@[simp] theorem State.setCls_fCsize : (s.setCls c).fCsize = s.fCsize := rfl
@[simp] theorem State.setCls_fCrc : (s.setCls c).fCrc = s.fCrc := rfl
@[simp] theorem State.setCls_fType : (s.setCls c).fType = s.fType := rfl
@[simp] theorem State.setCls_crcOut : (s.setCls c).crcOut = s.crcOut := rfl
@[simp] theorem State.setCls_lz4Res : (s.setCls c).lz4Res = s.lz4Res := rfl
@[simp] theorem State.setCls_payLen : (s.setCls c).payLen = s.payLen := rfl
@[simp] theorem State.setCls_cls : (s.setCls c).cls = c := rfl
@[simp] theorem State.setCls_phase : (s.setCls c).phase = s.phase := rfl
@[simp] theorem State.setCls_cmdword : (s.setCls c).cmdword = s.cmdword := rfl
@[simp] theorem State.setCls_mem : (s.setCls c).mem = s.mem := rfl
@[simp] theorem State.setCls_agenda : (s.setCls c).agenda = s.agenda := rfl
@[simp] theorem State.setCls_reply : (s.setCls c).reply = s.reply := rfl
@[simp] theorem State.setCls_draws : (s.setCls c).draws = s.draws := rfl
@[simp] theorem State.setCls_memKind : (s.setCls c).memKind = s.memKind := rfl
@[simp] theorem State.setCls_proven : (s.setCls c).proven = s.proven := rfl
end

section
variable (s : State) (c : Word)
@[simp] theorem State.setCrcOut_ie : (s.setCrcOut c).ie = s.ie := rfl
@[simp] theorem State.setCrcOut_done : (s.setCrcOut c).done = s.done := rfl
@[simp] theorem State.setCrcOut_rej : (s.setCrcOut c).rej = s.rej := rfl
@[simp] theorem State.setCrcOut_err : (s.setCrcOut c).err = s.err := rfl
@[simp] theorem State.setCrcOut_srcAddr : (s.setCrcOut c).srcAddr = s.srcAddr := rfl
@[simp] theorem State.setCrcOut_srcLen : (s.setCrcOut c).srcLen = s.srcLen := rfl
@[simp] theorem State.setCrcOut_dstAddr : (s.setCrcOut c).dstAddr = s.dstAddr := rfl
@[simp] theorem State.setCrcOut_fOsize : (s.setCrcOut c).fOsize = s.fOsize := rfl
@[simp] theorem State.setCrcOut_fCsize : (s.setCrcOut c).fCsize = s.fCsize := rfl
@[simp] theorem State.setCrcOut_fCrc : (s.setCrcOut c).fCrc = s.fCrc := rfl
@[simp] theorem State.setCrcOut_fType : (s.setCrcOut c).fType = s.fType := rfl
@[simp] theorem State.setCrcOut_crcOut : (s.setCrcOut c).crcOut = c := rfl
@[simp] theorem State.setCrcOut_lz4Res : (s.setCrcOut c).lz4Res = s.lz4Res := rfl
@[simp] theorem State.setCrcOut_payLen : (s.setCrcOut c).payLen = s.payLen := rfl
@[simp] theorem State.setCrcOut_cls : (s.setCrcOut c).cls = s.cls := rfl
@[simp] theorem State.setCrcOut_phase : (s.setCrcOut c).phase = s.phase := rfl
@[simp] theorem State.setCrcOut_cmdword : (s.setCrcOut c).cmdword = s.cmdword := rfl
@[simp] theorem State.setCrcOut_mem : (s.setCrcOut c).mem = s.mem := rfl
@[simp] theorem State.setCrcOut_agenda : (s.setCrcOut c).agenda = s.agenda := rfl
@[simp] theorem State.setCrcOut_reply : (s.setCrcOut c).reply = s.reply := rfl
@[simp] theorem State.setCrcOut_draws : (s.setCrcOut c).draws = s.draws := rfl
@[simp] theorem State.setCrcOut_memKind : (s.setCrcOut c).memKind = s.memKind := rfl
@[simp] theorem State.setCrcOut_proven : (s.setCrcOut c).proven = s.proven := rfl
end

section
variable (s : State) (c : Word)
@[simp] theorem State.setSrcLen_ie : (s.setSrcLen c).ie = s.ie := rfl
@[simp] theorem State.setSrcLen_done : (s.setSrcLen c).done = s.done := rfl
@[simp] theorem State.setSrcLen_rej : (s.setSrcLen c).rej = s.rej := rfl
@[simp] theorem State.setSrcLen_err : (s.setSrcLen c).err = s.err := rfl
@[simp] theorem State.setSrcLen_srcAddr : (s.setSrcLen c).srcAddr = s.srcAddr := rfl
@[simp] theorem State.setSrcLen_srcLen : (s.setSrcLen c).srcLen = c := rfl
@[simp] theorem State.setSrcLen_dstAddr : (s.setSrcLen c).dstAddr = s.dstAddr := rfl
@[simp] theorem State.setSrcLen_fOsize : (s.setSrcLen c).fOsize = s.fOsize := rfl
@[simp] theorem State.setSrcLen_fCsize : (s.setSrcLen c).fCsize = s.fCsize := rfl
@[simp] theorem State.setSrcLen_fCrc : (s.setSrcLen c).fCrc = s.fCrc := rfl
@[simp] theorem State.setSrcLen_fType : (s.setSrcLen c).fType = s.fType := rfl
@[simp] theorem State.setSrcLen_crcOut : (s.setSrcLen c).crcOut = s.crcOut := rfl
@[simp] theorem State.setSrcLen_lz4Res : (s.setSrcLen c).lz4Res = s.lz4Res := rfl
@[simp] theorem State.setSrcLen_payLen : (s.setSrcLen c).payLen = s.payLen := rfl
@[simp] theorem State.setSrcLen_cls : (s.setSrcLen c).cls = s.cls := rfl
@[simp] theorem State.setSrcLen_phase : (s.setSrcLen c).phase = s.phase := rfl
@[simp] theorem State.setSrcLen_cmdword : (s.setSrcLen c).cmdword = s.cmdword := rfl
@[simp] theorem State.setSrcLen_mem : (s.setSrcLen c).mem = s.mem := rfl
@[simp] theorem State.setSrcLen_agenda : (s.setSrcLen c).agenda = s.agenda := rfl
@[simp] theorem State.setSrcLen_reply : (s.setSrcLen c).reply = s.reply := rfl
@[simp] theorem State.setSrcLen_draws : (s.setSrcLen c).draws = s.draws := rfl
@[simp] theorem State.setSrcLen_memKind : (s.setSrcLen c).memKind = s.memKind := rfl
@[simp] theorem State.setSrcLen_proven : (s.setSrcLen c).proven = s.proven := rfl
end

section
variable (s : State) (es : List Event)
@[simp] theorem State.setAgenda_ie : (s.setAgenda es).ie = s.ie := rfl
@[simp] theorem State.setAgenda_done : (s.setAgenda es).done = s.done := rfl
@[simp] theorem State.setAgenda_rej : (s.setAgenda es).rej = s.rej := rfl
@[simp] theorem State.setAgenda_err : (s.setAgenda es).err = s.err := rfl
@[simp] theorem State.setAgenda_srcAddr : (s.setAgenda es).srcAddr = s.srcAddr := rfl
@[simp] theorem State.setAgenda_srcLen : (s.setAgenda es).srcLen = s.srcLen := rfl
@[simp] theorem State.setAgenda_dstAddr : (s.setAgenda es).dstAddr = s.dstAddr := rfl
@[simp] theorem State.setAgenda_fOsize : (s.setAgenda es).fOsize = s.fOsize := rfl
@[simp] theorem State.setAgenda_fCsize : (s.setAgenda es).fCsize = s.fCsize := rfl
@[simp] theorem State.setAgenda_fCrc : (s.setAgenda es).fCrc = s.fCrc := rfl
@[simp] theorem State.setAgenda_fType : (s.setAgenda es).fType = s.fType := rfl
@[simp] theorem State.setAgenda_crcOut : (s.setAgenda es).crcOut = s.crcOut := rfl
@[simp] theorem State.setAgenda_lz4Res : (s.setAgenda es).lz4Res = s.lz4Res := rfl
@[simp] theorem State.setAgenda_payLen : (s.setAgenda es).payLen = s.payLen := rfl
@[simp] theorem State.setAgenda_cls : (s.setAgenda es).cls = s.cls := rfl
@[simp] theorem State.setAgenda_phase : (s.setAgenda es).phase = s.phase := rfl
@[simp] theorem State.setAgenda_cmdword : (s.setAgenda es).cmdword = s.cmdword := rfl
@[simp] theorem State.setAgenda_mem : (s.setAgenda es).mem = s.mem := rfl
@[simp] theorem State.setAgenda_agenda : (s.setAgenda es).agenda = es := rfl
@[simp] theorem State.setAgenda_reply : (s.setAgenda es).reply = s.reply := rfl
@[simp] theorem State.setAgenda_draws : (s.setAgenda es).draws = s.draws := rfl
@[simp] theorem State.setAgenda_memKind : (s.setAgenda es).memKind = s.memKind := rfl
@[simp] theorem State.setAgenda_proven : (s.setAgenda es).proven = s.proven := rfl
end

section
variable (s : State) (p : Reply)
@[simp] theorem State.setReply_ie : (s.setReply p).ie = s.ie := rfl
@[simp] theorem State.setReply_done : (s.setReply p).done = s.done := rfl
@[simp] theorem State.setReply_rej : (s.setReply p).rej = s.rej := rfl
@[simp] theorem State.setReply_err : (s.setReply p).err = s.err := rfl
@[simp] theorem State.setReply_srcAddr : (s.setReply p).srcAddr = s.srcAddr := rfl
@[simp] theorem State.setReply_srcLen : (s.setReply p).srcLen = s.srcLen := rfl
@[simp] theorem State.setReply_dstAddr : (s.setReply p).dstAddr = s.dstAddr := rfl
@[simp] theorem State.setReply_fOsize : (s.setReply p).fOsize = s.fOsize := rfl
@[simp] theorem State.setReply_fCsize : (s.setReply p).fCsize = s.fCsize := rfl
@[simp] theorem State.setReply_fCrc : (s.setReply p).fCrc = s.fCrc := rfl
@[simp] theorem State.setReply_fType : (s.setReply p).fType = s.fType := rfl
@[simp] theorem State.setReply_crcOut : (s.setReply p).crcOut = s.crcOut := rfl
@[simp] theorem State.setReply_lz4Res : (s.setReply p).lz4Res = s.lz4Res := rfl
@[simp] theorem State.setReply_payLen : (s.setReply p).payLen = s.payLen := rfl
@[simp] theorem State.setReply_cls : (s.setReply p).cls = s.cls := rfl
@[simp] theorem State.setReply_phase : (s.setReply p).phase = s.phase := rfl
@[simp] theorem State.setReply_cmdword : (s.setReply p).cmdword = s.cmdword := rfl
@[simp] theorem State.setReply_mem : (s.setReply p).mem = s.mem := rfl
@[simp] theorem State.setReply_agenda : (s.setReply p).agenda = s.agenda := rfl
@[simp] theorem State.setReply_reply : (s.setReply p).reply = p := rfl
@[simp] theorem State.setReply_draws : (s.setReply p).draws = s.draws := rfl
@[simp] theorem State.setReply_memKind : (s.setReply p).memKind = s.memKind := rfl
@[simp] theorem State.setReply_proven : (s.setReply p).proven = s.proven := rfl
end

section
variable (s : State)
@[simp] theorem State.setRej_ie : s.setRej.ie = s.ie := rfl
@[simp] theorem State.setRej_done : s.setRej.done = s.done := rfl
@[simp] theorem State.setRej_rej : s.setRej.rej = true := rfl
@[simp] theorem State.setRej_err : s.setRej.err = s.err := rfl
@[simp] theorem State.setRej_srcAddr : s.setRej.srcAddr = s.srcAddr := rfl
@[simp] theorem State.setRej_srcLen : s.setRej.srcLen = s.srcLen := rfl
@[simp] theorem State.setRej_dstAddr : s.setRej.dstAddr = s.dstAddr := rfl
@[simp] theorem State.setRej_fOsize : s.setRej.fOsize = s.fOsize := rfl
@[simp] theorem State.setRej_fCsize : s.setRej.fCsize = s.fCsize := rfl
@[simp] theorem State.setRej_fCrc : s.setRej.fCrc = s.fCrc := rfl
@[simp] theorem State.setRej_fType : s.setRej.fType = s.fType := rfl
@[simp] theorem State.setRej_crcOut : s.setRej.crcOut = s.crcOut := rfl
@[simp] theorem State.setRej_lz4Res : s.setRej.lz4Res = s.lz4Res := rfl
@[simp] theorem State.setRej_payLen : s.setRej.payLen = s.payLen := rfl
@[simp] theorem State.setRej_cls : s.setRej.cls = s.cls := rfl
@[simp] theorem State.setRej_phase : s.setRej.phase = s.phase := rfl
@[simp] theorem State.setRej_cmdword : s.setRej.cmdword = s.cmdword := rfl
@[simp] theorem State.setRej_mem : s.setRej.mem = s.mem := rfl
@[simp] theorem State.setRej_agenda : s.setRej.agenda = s.agenda := rfl
@[simp] theorem State.setRej_reply : s.setRej.reply = s.reply := rfl
@[simp] theorem State.setRej_draws : s.setRej.draws = s.draws := rfl
@[simp] theorem State.setRej_memKind : s.setRej.memKind = s.memKind := rfl
@[simp] theorem State.setRej_proven : s.setRej.proven = s.proven := rfl
end

section
variable (s : State) (c : Word)
@[simp] theorem State.setFCrc_ie : (s.setFCrc c).ie = s.ie := rfl
@[simp] theorem State.setFCrc_done : (s.setFCrc c).done = s.done := rfl
@[simp] theorem State.setFCrc_rej : (s.setFCrc c).rej = s.rej := rfl
@[simp] theorem State.setFCrc_err : (s.setFCrc c).err = s.err := rfl
@[simp] theorem State.setFCrc_srcAddr : (s.setFCrc c).srcAddr = s.srcAddr := rfl
@[simp] theorem State.setFCrc_srcLen : (s.setFCrc c).srcLen = s.srcLen := rfl
@[simp] theorem State.setFCrc_dstAddr : (s.setFCrc c).dstAddr = s.dstAddr := rfl
@[simp] theorem State.setFCrc_fOsize : (s.setFCrc c).fOsize = s.fOsize := rfl
@[simp] theorem State.setFCrc_fCsize : (s.setFCrc c).fCsize = s.fCsize := rfl
@[simp] theorem State.setFCrc_fCrc : (s.setFCrc c).fCrc = c := rfl
@[simp] theorem State.setFCrc_fType : (s.setFCrc c).fType = s.fType := rfl
@[simp] theorem State.setFCrc_crcOut : (s.setFCrc c).crcOut = s.crcOut := rfl
@[simp] theorem State.setFCrc_lz4Res : (s.setFCrc c).lz4Res = s.lz4Res := rfl
@[simp] theorem State.setFCrc_payLen : (s.setFCrc c).payLen = s.payLen := rfl
@[simp] theorem State.setFCrc_cls : (s.setFCrc c).cls = s.cls := rfl
@[simp] theorem State.setFCrc_phase : (s.setFCrc c).phase = s.phase := rfl
@[simp] theorem State.setFCrc_cmdword : (s.setFCrc c).cmdword = s.cmdword := rfl
@[simp] theorem State.setFCrc_mem : (s.setFCrc c).mem = s.mem := rfl
@[simp] theorem State.setFCrc_agenda : (s.setFCrc c).agenda = s.agenda := rfl
@[simp] theorem State.setFCrc_reply : (s.setFCrc c).reply = s.reply := rfl
@[simp] theorem State.setFCrc_draws : (s.setFCrc c).draws = s.draws := rfl
@[simp] theorem State.setFCrc_memKind : (s.setFCrc c).memKind = s.memKind := rfl
@[simp] theorem State.setFCrc_proven : (s.setFCrc c).proven = s.proven := rfl
end

section
variable (s : State) (n : Word)
@[simp] theorem State.setFCsize_ie : (s.setFCsize n).ie = s.ie := rfl
@[simp] theorem State.setFCsize_done : (s.setFCsize n).done = s.done := rfl
@[simp] theorem State.setFCsize_rej : (s.setFCsize n).rej = s.rej := rfl
@[simp] theorem State.setFCsize_err : (s.setFCsize n).err = s.err := rfl
@[simp] theorem State.setFCsize_srcAddr : (s.setFCsize n).srcAddr = s.srcAddr := rfl
@[simp] theorem State.setFCsize_srcLen : (s.setFCsize n).srcLen = s.srcLen := rfl
@[simp] theorem State.setFCsize_dstAddr : (s.setFCsize n).dstAddr = s.dstAddr := rfl
@[simp] theorem State.setFCsize_fOsize : (s.setFCsize n).fOsize = s.fOsize := rfl
@[simp] theorem State.setFCsize_fCsize : (s.setFCsize n).fCsize = n := rfl
@[simp] theorem State.setFCsize_fCrc : (s.setFCsize n).fCrc = s.fCrc := rfl
@[simp] theorem State.setFCsize_fType : (s.setFCsize n).fType = s.fType := rfl
@[simp] theorem State.setFCsize_crcOut : (s.setFCsize n).crcOut = s.crcOut := rfl
@[simp] theorem State.setFCsize_lz4Res : (s.setFCsize n).lz4Res = s.lz4Res := rfl
@[simp] theorem State.setFCsize_payLen : (s.setFCsize n).payLen = s.payLen := rfl
@[simp] theorem State.setFCsize_cls : (s.setFCsize n).cls = s.cls := rfl
@[simp] theorem State.setFCsize_phase : (s.setFCsize n).phase = s.phase := rfl
@[simp] theorem State.setFCsize_cmdword : (s.setFCsize n).cmdword = s.cmdword := rfl
@[simp] theorem State.setFCsize_mem : (s.setFCsize n).mem = s.mem := rfl
@[simp] theorem State.setFCsize_agenda : (s.setFCsize n).agenda = s.agenda := rfl
@[simp] theorem State.setFCsize_reply : (s.setFCsize n).reply = s.reply := rfl
@[simp] theorem State.setFCsize_draws : (s.setFCsize n).draws = s.draws := rfl
@[simp] theorem State.setFCsize_memKind : (s.setFCsize n).memKind = s.memKind := rfl
@[simp] theorem State.setFCsize_proven : (s.setFCsize n).proven = s.proven := rfl
end

section
variable (s : State) (w : Word)
@[simp] theorem State.setCmdword_ie : (s.setCmdword w).ie = s.ie := rfl
@[simp] theorem State.setCmdword_done : (s.setCmdword w).done = s.done := rfl
@[simp] theorem State.setCmdword_rej : (s.setCmdword w).rej = s.rej := rfl
@[simp] theorem State.setCmdword_err : (s.setCmdword w).err = s.err := rfl
@[simp] theorem State.setCmdword_srcAddr : (s.setCmdword w).srcAddr = s.srcAddr := rfl
@[simp] theorem State.setCmdword_srcLen : (s.setCmdword w).srcLen = s.srcLen := rfl
@[simp] theorem State.setCmdword_dstAddr : (s.setCmdword w).dstAddr = s.dstAddr := rfl
@[simp] theorem State.setCmdword_fOsize : (s.setCmdword w).fOsize = s.fOsize := rfl
@[simp] theorem State.setCmdword_fCsize : (s.setCmdword w).fCsize = s.fCsize := rfl
@[simp] theorem State.setCmdword_fCrc : (s.setCmdword w).fCrc = s.fCrc := rfl
@[simp] theorem State.setCmdword_fType : (s.setCmdword w).fType = s.fType := rfl
@[simp] theorem State.setCmdword_crcOut : (s.setCmdword w).crcOut = s.crcOut := rfl
@[simp] theorem State.setCmdword_lz4Res : (s.setCmdword w).lz4Res = s.lz4Res := rfl
@[simp] theorem State.setCmdword_payLen : (s.setCmdword w).payLen = s.payLen := rfl
@[simp] theorem State.setCmdword_cls : (s.setCmdword w).cls = s.cls := rfl
@[simp] theorem State.setCmdword_phase : (s.setCmdword w).phase = s.phase := rfl
@[simp] theorem State.setCmdword_cmdword : (s.setCmdword w).cmdword = w := rfl
@[simp] theorem State.setCmdword_mem : (s.setCmdword w).mem = s.mem := rfl
@[simp] theorem State.setCmdword_agenda : (s.setCmdword w).agenda = s.agenda := rfl
@[simp] theorem State.setCmdword_reply : (s.setCmdword w).reply = s.reply := rfl
@[simp] theorem State.setCmdword_draws : (s.setCmdword w).draws = s.draws := rfl
@[simp] theorem State.setCmdword_memKind : (s.setCmdword w).memKind = s.memKind := rfl
@[simp] theorem State.setCmdword_proven : (s.setCmdword w).proven = s.proven := rfl
end

section
variable (s : State) (m : Memory)
@[simp] theorem State.setMem_ie : (s.setMem m).ie = s.ie := rfl
@[simp] theorem State.setMem_done : (s.setMem m).done = s.done := rfl
@[simp] theorem State.setMem_rej : (s.setMem m).rej = s.rej := rfl
@[simp] theorem State.setMem_err : (s.setMem m).err = s.err := rfl
@[simp] theorem State.setMem_srcAddr : (s.setMem m).srcAddr = s.srcAddr := rfl
@[simp] theorem State.setMem_srcLen : (s.setMem m).srcLen = s.srcLen := rfl
@[simp] theorem State.setMem_dstAddr : (s.setMem m).dstAddr = s.dstAddr := rfl
@[simp] theorem State.setMem_fOsize : (s.setMem m).fOsize = s.fOsize := rfl
@[simp] theorem State.setMem_fCsize : (s.setMem m).fCsize = s.fCsize := rfl
@[simp] theorem State.setMem_fCrc : (s.setMem m).fCrc = s.fCrc := rfl
@[simp] theorem State.setMem_fType : (s.setMem m).fType = s.fType := rfl
@[simp] theorem State.setMem_crcOut : (s.setMem m).crcOut = s.crcOut := rfl
@[simp] theorem State.setMem_lz4Res : (s.setMem m).lz4Res = s.lz4Res := rfl
@[simp] theorem State.setMem_payLen : (s.setMem m).payLen = s.payLen := rfl
@[simp] theorem State.setMem_cls : (s.setMem m).cls = s.cls := rfl
@[simp] theorem State.setMem_phase : (s.setMem m).phase = s.phase := rfl
@[simp] theorem State.setMem_cmdword : (s.setMem m).cmdword = s.cmdword := rfl
@[simp] theorem State.setMem_mem : (s.setMem m).mem = m := rfl
@[simp] theorem State.setMem_agenda : (s.setMem m).agenda = s.agenda := rfl
@[simp] theorem State.setMem_reply : (s.setMem m).reply = s.reply := rfl
@[simp] theorem State.setMem_draws : (s.setMem m).draws = s.draws := rfl
@[simp] theorem State.setMem_memKind : (s.setMem m).memKind = s.memKind := rfl
@[simp] theorem State.setMem_proven : (s.setMem m).proven = s.proven := rfl
end

section
variable (s : State) (f : Footer) (n : Word)
@[simp] theorem State.setFooter_ie : (s.setFooter f n).ie = s.ie := rfl
@[simp] theorem State.setFooter_done : (s.setFooter f n).done = s.done := rfl
@[simp] theorem State.setFooter_rej : (s.setFooter f n).rej = s.rej := rfl
@[simp] theorem State.setFooter_err : (s.setFooter f n).err = s.err := rfl
@[simp] theorem State.setFooter_srcAddr : (s.setFooter f n).srcAddr = s.srcAddr := rfl
@[simp] theorem State.setFooter_srcLen : (s.setFooter f n).srcLen = s.srcLen := rfl
@[simp] theorem State.setFooter_dstAddr : (s.setFooter f n).dstAddr = s.dstAddr := rfl
@[simp] theorem State.setFooter_fOsize : (s.setFooter f n).fOsize = f.osize := rfl
@[simp] theorem State.setFooter_fCsize : (s.setFooter f n).fCsize = f.csize := rfl
@[simp] theorem State.setFooter_fCrc : (s.setFooter f n).fCrc = f.crc := rfl
@[simp] theorem State.setFooter_fType : (s.setFooter f n).fType = f.typ := rfl
@[simp] theorem State.setFooter_crcOut : (s.setFooter f n).crcOut = s.crcOut := rfl
@[simp] theorem State.setFooter_lz4Res : (s.setFooter f n).lz4Res = s.lz4Res := rfl
@[simp] theorem State.setFooter_payLen : (s.setFooter f n).payLen = n := rfl
@[simp] theorem State.setFooter_cls : (s.setFooter f n).cls = s.cls := rfl
@[simp] theorem State.setFooter_phase : (s.setFooter f n).phase = s.phase := rfl
@[simp] theorem State.setFooter_cmdword : (s.setFooter f n).cmdword = s.cmdword := rfl
@[simp] theorem State.setFooter_mem : (s.setFooter f n).mem = s.mem := rfl
@[simp] theorem State.setFooter_agenda : (s.setFooter f n).agenda = s.agenda := rfl
@[simp] theorem State.setFooter_reply : (s.setFooter f n).reply = s.reply := rfl
@[simp] theorem State.setFooter_draws : (s.setFooter f n).draws = s.draws := rfl
@[simp] theorem State.setFooter_memKind : (s.setFooter f n).memKind = s.memKind := rfl
@[simp] theorem State.setFooter_proven : (s.setFooter f n).proven = s.proven := rfl
end

section
variable (s : State) (e : ErrCode)
@[simp] theorem State.complete_ie : (s.complete e).ie = s.ie := rfl
@[simp] theorem State.complete_done : (s.complete e).done = true := rfl
@[simp] theorem State.complete_rej : (s.complete e).rej = s.rej := rfl
@[simp] theorem State.complete_err : (s.complete e).err = e := rfl
@[simp] theorem State.complete_srcAddr : (s.complete e).srcAddr = s.srcAddr := rfl
@[simp] theorem State.complete_srcLen : (s.complete e).srcLen = s.srcLen := rfl
@[simp] theorem State.complete_dstAddr : (s.complete e).dstAddr = s.dstAddr := rfl
@[simp] theorem State.complete_fOsize : (s.complete e).fOsize = s.fOsize := rfl
@[simp] theorem State.complete_fCsize : (s.complete e).fCsize = s.fCsize := rfl
@[simp] theorem State.complete_fCrc : (s.complete e).fCrc = s.fCrc := rfl
@[simp] theorem State.complete_fType : (s.complete e).fType = s.fType := rfl
@[simp] theorem State.complete_crcOut : (s.complete e).crcOut = s.crcOut := rfl
@[simp] theorem State.complete_lz4Res : (s.complete e).lz4Res = s.lz4Res := rfl
@[simp] theorem State.complete_payLen : (s.complete e).payLen = s.payLen := rfl
@[simp] theorem State.complete_cls : (s.complete e).cls = s.cls := rfl
@[simp] theorem State.complete_phase : (s.complete e).phase = .idle := rfl
@[simp] theorem State.complete_cmdword : (s.complete e).cmdword = s.cmdword := rfl
@[simp] theorem State.complete_mem : (s.complete e).mem = s.mem := rfl
@[simp] theorem State.complete_agenda : (s.complete e).agenda = s.agenda := rfl
@[simp] theorem State.complete_reply : (s.complete e).reply = s.reply := rfl
@[simp] theorem State.complete_draws : (s.complete e).draws = s.draws := rfl
@[simp] theorem State.complete_memKind : (s.complete e).memKind = s.memKind := rfl
@[simp] theorem State.complete_proven : (s.complete e).proven = s.proven := rfl
end

section
variable (s : State)
@[simp] theorem State.clearDone_ie : (s.clearDone).ie = s.ie := rfl
@[simp] theorem State.clearDone_done : (s.clearDone).done = false := rfl
@[simp] theorem State.clearDone_rej : (s.clearDone).rej = s.rej := rfl
@[simp] theorem State.clearDone_err : (s.clearDone).err = s.err := rfl
@[simp] theorem State.clearDone_srcAddr : (s.clearDone).srcAddr = s.srcAddr := rfl
@[simp] theorem State.clearDone_srcLen : (s.clearDone).srcLen = s.srcLen := rfl
@[simp] theorem State.clearDone_dstAddr : (s.clearDone).dstAddr = s.dstAddr := rfl
@[simp] theorem State.clearDone_fOsize : (s.clearDone).fOsize = s.fOsize := rfl
@[simp] theorem State.clearDone_fCsize : (s.clearDone).fCsize = s.fCsize := rfl
@[simp] theorem State.clearDone_fCrc : (s.clearDone).fCrc = s.fCrc := rfl
@[simp] theorem State.clearDone_fType : (s.clearDone).fType = s.fType := rfl
@[simp] theorem State.clearDone_crcOut : (s.clearDone).crcOut = s.crcOut := rfl
@[simp] theorem State.clearDone_lz4Res : (s.clearDone).lz4Res = s.lz4Res := rfl
@[simp] theorem State.clearDone_payLen : (s.clearDone).payLen = s.payLen := rfl
@[simp] theorem State.clearDone_cls : (s.clearDone).cls = s.cls := rfl
@[simp] theorem State.clearDone_phase : (s.clearDone).phase = s.phase := rfl
@[simp] theorem State.clearDone_cmdword : (s.clearDone).cmdword = s.cmdword := rfl
@[simp] theorem State.clearDone_mem : (s.clearDone).mem = s.mem := rfl
@[simp] theorem State.clearDone_agenda : (s.clearDone).agenda = s.agenda := rfl
@[simp] theorem State.clearDone_reply : (s.clearDone).reply = s.reply := rfl
@[simp] theorem State.clearDone_draws : (s.clearDone).draws = s.draws := rfl
@[simp] theorem State.clearDone_memKind : (s.clearDone).memKind = s.memKind := rfl
@[simp] theorem State.clearDone_proven : (s.clearDone).proven = s.proven := rfl
end

section
variable (s : State) (w : Word)
@[simp] theorem State.issue_ie : (s.issue w).ie = s.ie := rfl
@[simp] theorem State.issue_done : (s.issue w).done = false := rfl
@[simp] theorem State.issue_rej : (s.issue w).rej = s.rej := rfl
@[simp] theorem State.issue_err : (s.issue w).err = s.err := rfl
@[simp] theorem State.issue_srcAddr : (s.issue w).srcAddr = s.srcAddr := rfl
@[simp] theorem State.issue_srcLen : (s.issue w).srcLen = s.srcLen := rfl
@[simp] theorem State.issue_dstAddr : (s.issue w).dstAddr = s.dstAddr := rfl
@[simp] theorem State.issue_fOsize : (s.issue w).fOsize = s.fOsize := rfl
@[simp] theorem State.issue_fCsize : (s.issue w).fCsize = s.fCsize := rfl
@[simp] theorem State.issue_fCrc : (s.issue w).fCrc = s.fCrc := rfl
@[simp] theorem State.issue_fType : (s.issue w).fType = s.fType := rfl
@[simp] theorem State.issue_crcOut : (s.issue w).crcOut = s.crcOut := rfl
@[simp] theorem State.issue_lz4Res : (s.issue w).lz4Res = s.lz4Res := rfl
@[simp] theorem State.issue_payLen : (s.issue w).payLen = s.payLen := rfl
@[simp] theorem State.issue_cls : (s.issue w).cls = s.cls := rfl
@[simp] theorem State.issue_phase : (s.issue w).phase = .busy := rfl
@[simp] theorem State.issue_cmdword : (s.issue w).cmdword = w := rfl
@[simp] theorem State.issue_mem : (s.issue w).mem = s.mem := rfl
@[simp] theorem State.issue_agenda : (s.issue w).agenda = s.agenda := rfl
@[simp] theorem State.issue_reply : (s.issue w).reply = s.reply := rfl
@[simp] theorem State.issue_draws : (s.issue w).draws = s.draws := rfl
@[simp] theorem State.issue_memKind : (s.issue w).memKind = s.memKind := rfl
@[simp] theorem State.issue_proven : (s.issue w).proven = s.proven := rfl
end

section
variable (s : State) (r : Region)
@[simp] theorem State.noteWritten_ie : (s.noteWritten r).ie = s.ie := rfl
@[simp] theorem State.noteWritten_done : (s.noteWritten r).done = s.done := rfl
@[simp] theorem State.noteWritten_rej : (s.noteWritten r).rej = s.rej := rfl
@[simp] theorem State.noteWritten_err : (s.noteWritten r).err = s.err := rfl
@[simp] theorem State.noteWritten_srcAddr : (s.noteWritten r).srcAddr = s.srcAddr := rfl
@[simp] theorem State.noteWritten_srcLen : (s.noteWritten r).srcLen = s.srcLen := rfl
@[simp] theorem State.noteWritten_dstAddr : (s.noteWritten r).dstAddr = s.dstAddr := rfl
@[simp] theorem State.noteWritten_fOsize : (s.noteWritten r).fOsize = s.fOsize := rfl
@[simp] theorem State.noteWritten_fCsize : (s.noteWritten r).fCsize = s.fCsize := rfl
@[simp] theorem State.noteWritten_fCrc : (s.noteWritten r).fCrc = s.fCrc := rfl
@[simp] theorem State.noteWritten_fType : (s.noteWritten r).fType = s.fType := rfl
@[simp] theorem State.noteWritten_crcOut : (s.noteWritten r).crcOut = s.crcOut := rfl
@[simp] theorem State.noteWritten_lz4Res : (s.noteWritten r).lz4Res = s.lz4Res := rfl
@[simp] theorem State.noteWritten_payLen : (s.noteWritten r).payLen = s.payLen := rfl
@[simp] theorem State.noteWritten_cls : (s.noteWritten r).cls = s.cls := rfl
@[simp] theorem State.noteWritten_phase : (s.noteWritten r).phase = s.phase := rfl
@[simp] theorem State.noteWritten_cmdword : (s.noteWritten r).cmdword = s.cmdword := rfl
@[simp] theorem State.noteWritten_mem : (s.noteWritten r).mem = s.mem := rfl
@[simp] theorem State.noteWritten_agenda : (s.noteWritten r).agenda = s.agenda := rfl
@[simp] theorem State.noteWritten_reply : (s.noteWritten r).reply = s.reply := rfl
@[simp] theorem State.noteWritten_draws : (s.noteWritten r).draws = s.draws := rfl
@[simp] theorem State.noteWritten_memKind : (s.noteWritten r).memKind = s.memKind := rfl
@[simp] theorem State.noteWritten_proven :
    (s.noteWritten r).proven = s.proven.filter (fun p => !p.region.overlaps r) := rfl
end

/-- The later of two agendas stays. -/
@[simp] theorem State.setAgenda_setAgenda (s : State) (es es' : List Event) :
    (s.setAgenda es).setAgenda es' = s.setAgenda es' := rfl

section
variable (s : State)
@[simp] theorem State.src_start : s.src.start = s.srcAddr.toNat := rfl
@[simp] theorem State.src_len : s.src.len = s.srcLen.toNat := rfl
@[simp] theorem State.dst_start : s.dst.start = s.dstAddr.toNat := rfl
@[simp] theorem State.dst_len : s.dst.len = 20 := rfl
end

end Sys2Proof.Machine
end

