-- ==== Sys2Proof/Laws/Bus.lean ====
section
/-! SUPPORT. What the register bus and the agents' steps can do, said once. -/

namespace Sys2Proof.Machine

/-! ### The window -/

@[simp] theorem regAt_regOffset (r : Reg) : regAt (regOffset r) = some r := by cases r <;> rfl

theorem regOffset_aligned (r : Reg) : regOffset r % 4 = 0 := by cases r <;> rfl

theorem regOffset_inWindow (r : Reg) : regOffset r < 64 := by cases r <;> decide

theorem busAddress_injective : Function.Injective busAddress := by
  intro r q h
  have : regOffset r = regOffset q := Nat.add_left_cancel h
  have := congrArg regAt this
  simpa using this

/-- An access to a register of the window, aligned and 32 bits wide. -/
@[simp] theorem busAccess_reg (r : Reg) (k : Reg → State) : busAccess (regOffset r) 4 k = .next (k r) := by
  simp [busAccess, regOffset_aligned]

theorem busAccess_undefined {off bytes : Nat} (k : Reg → State) (h : bytes ≠ 4 ∨ off % 4 ≠ 0) :
    busAccess off bytes k = .refused .undefinedRegisterAccess := by
  rw [busAccess, if_pos h]

/-- A register access that answers a state is an access to a register. -/
theorem busAccess_next {off bytes : Nat} {k : Reg → State} {t : State} (h : busAccess off bytes k = .next t) :
    ∃ r, regAt off = some r ∧ t = k r := by
  unfold busAccess at h
  split at h
  · cases h
  · cases hr : regAt off with
    | none => rw [hr] at h; cases h
    | some r => rw [hr] at h; cases h; exact ⟨r, rfl, rfl⟩

/-! ### Writes -/

theorem ifIdle_idle {s t : State} (h : s.phase = .idle) : ifIdle s t = t := by simp [ifIdle, h]

theorem ifIdle_busy {s t : State} (h : s.phase = .busy) : ifIdle s t = s.setRej := by simp [ifIdle, h]

section
variable (v : Word) (s : State)
@[simp] theorem writeStatus_done : (writeStatus v s).done = (s.done && !v.getLsbD 1) := by
  unfold writeStatus; cases h : v.getLsbD 1 <;> simp
@[simp] theorem writeStatus_rej : (writeStatus v s).rej = (s.rej && !v.getLsbD 2) := rfl
@[simp] theorem writeStatus_mem : (writeStatus v s).mem = s.mem := by unfold writeStatus; cases v.getLsbD 1 <;> rfl
@[simp] theorem writeStatus_proven : (writeStatus v s).proven = s.proven := by
  unfold writeStatus; cases v.getLsbD 1 <;> rfl
@[simp] theorem writeStatus_phase : (writeStatus v s).phase = s.phase := by
  unfold writeStatus; cases v.getLsbD 1 <;> rfl
@[simp] theorem writeStatus_err : (writeStatus v s).err = s.err := by unfold writeStatus; cases v.getLsbD 1 <;> rfl
end

theorem writeStatus_eq (v : Word) (s : State) :
    writeStatus v s = { s with done := s.done && !v.getLsbD 1, rej := s.rej && !v.getLsbD 2 } := by
  unfold writeStatus; cases v.getLsbD 1 <;> simp [State.clearDone]

/-- A register write changes neither buffer memory, nor STATUS.ERR, nor what the unit computed, nor the covered
containers, nor the platform. -/
theorem writeReg_keeps (r : Reg) (v : Word) (s : State) :
    (writeReg r v s).mem = s.mem ∧ (writeReg r v s).err = s.err ∧ (writeReg r v s).crcOut = s.crcOut ∧
      (writeReg r v s).payLen = s.payLen ∧ (writeReg r v s).cls = s.cls ∧ (writeReg r v s).proven = s.proven ∧
      (writeReg r v s).memKind = s.memKind := by
  cases r <;> simp only [writeReg, writeStatus_eq, ifIdle] <;> cases s.phase <;> simp [State.issue]

/-! ### The step -/

theorem step_empty {s : State} (h : s.agenda = []) : step s = unitStep s := by simp [step, h]

theorem step_cons {s : State} {e : Event} {es : List Event} (h : s.agenda = e :: es) :
    step s = eventStep e (s.setAgenda es) := by simp [step, h]

/-- The step of the first entry of the agenda. -/
theorem step_setAgenda_cons (s : State) (e : Event) (es : List Event) :
    step (s.setAgenda (e :: es)) = eventStep e (s.setAgenda es) := rfl

/-- The step of an empty agenda is the unit's. -/
theorem step_setAgenda_nil (s : State) : step (s.setAgenda []) = unitStep (s.setAgenda []) := rfl

theorem inFlight_idle {s : State} (h : s.phase = .idle) : s.inFlight = none := by simp [State.inFlight, h]

theorem inFlight_busy {s : State} (h : s.phase = .busy) : s.inFlight = some (decodeWord s.cmdword) := by
  simp [State.inFlight, h]

theorem unitStep_idle {s : State} (h : s.phase = .idle) : unitStep s = .next s := by
  simp [unitStep, inFlight_idle h]

theorem unitStep_busy {s : State} (h : s.phase = .busy) (hm : s.misplaced (decodeWord s.cmdword) = false) :
    unitStep s = runCommand (decodeWord s.cmdword) s := by
  simp [unitStep, inFlight_busy h, hm]

theorem unitStep_misplaced {s : State} (h : s.phase = .busy) (hm : s.misplaced (decodeWord s.cmdword) = true) :
    unitStep s = .refused .nonOrdinaryMemory := by
  simp [unitStep, inFlight_busy h, hm]

theorem runCommand_of_next {i : Instr} {s t : State} (h : exec i s = .next t) :
    runCommand i s = .next (noteCompletion i t) := by simp [runCommand, h]

/-- What `noteCompletion` changes is the list of covered containers alone. -/
theorem noteCompletion_eq (i : Instr) (s : State) :
    noteCompletion i s = { s with proven := (noteCompletion i s).proven } := by
  cases i <;> simp only [noteCompletion] <;> split <;> rfl

/-- The memory write of another agent than the in-flight command, when it answers a state. -/
theorem hostMemWrite_next {a : Word} {b : Byte} {s t : State} (h : hostMemWrite a b s = .next t) :
    s.srcBusy a.toNat = false ∧ s.dstBusy a.toNat = false ∧ s.nonOrdinary a.toNat = false ∧
      t = (s.setMem (Memory.write s.mem a.toNat b)).noteWritten ⟨a.toNat, 1⟩ := by
  unfold hostMemWrite at h
  split at h
  · cases h
  · split at h
    · cases h
    · split at h
      · cases h
      · rename_i h1 h2 h3; cases h; exact ⟨by simpa using h1, by simpa using h2, by simpa using h3, rfl⟩

/-- The regions share no byte. -/
theorem overlaps_false {r q : Region} (hr : 0 < r.len) (h : r.overlaps q = false) {x : Nat}
    (h1 : r.start ≤ x) (h2 : x < r.start + r.len) : x < q.start ∨ q.start + q.len ≤ x := by
  simp only [Region.overlaps, decide_eq_false_iff_not] at h
  omega

end Sys2Proof.Machine
end

