-- ==== Sys2Proof/Laws/Crc.lean ====
section
/-! SUPPORT. The CRC engine: it reads a sequence from left to right, and no step of it loses a bit of the register. -/

namespace Sys2Proof.Machine

theorem crcFold_append (p c : Word) (xs ys : List Byte) :
    crcFold p c (xs ++ ys) = crcFold p (crcFold p c xs) ys := by
  induction xs generalizing c with
  | nil => rfl
  | cons x xs ih => exact ih _

/-- With a polynomial whose top bit is set, the bit shifted out can be told from the bit shifted in. -/
theorem crcShift_injective {p : Word} (hp : p.getLsbD 31 = true) : Function.Injective (crcShift p) := by
  intro x y h
  have key : ∀ z : Word, (crcShift p z).getLsbD 31 = z.getLsbD 0 := by
    intro z
    unfold crcShift
    have hz32 : z.getLsbD (1 + 31) = false := BitVec.getLsbD_of_ge z 32 (Nat.le_refl _)
    split <;> rename_i hz
    · rw [BitVec.getLsbD_xor, BitVec.getLsbD_ushiftRight, hz32, hp, hz]; rfl
    · rw [BitVec.getLsbD_ushiftRight, hz32, show z.getLsbD 0 = false by simpa using hz]
  have h0 : x.getLsbD 0 = y.getLsbD 0 := by rw [← key x, ← key y, h]
  have hs : x >>> 1 = y >>> 1 := by
    unfold crcShift at h
    rw [h0] at h
    split at h
    · exact (BitVec.xor_left_inj _).1 h
    · exact h
  ext i hi
  rw [← BitVec.getLsbD_eq_getElem, ← BitVec.getLsbD_eq_getElem]
  cases i with
  | zero => exact h0
  | succ i => simpa [Nat.add_comm] using congrArg (fun w => BitVec.getLsbD w i) hs

theorem crcShifts_injective {p : Word} (hp : p.getLsbD 31 = true) (n : Nat) : Function.Injective (crcShifts p n) := by
  induction n with
  | zero => exact fun _ _ h => h
  | succ n ih => exact fun _ _ h => crcShift_injective hp (ih h)

/-- Two registers that differ still differ after the same bytes. -/
theorem crcFold_injective {p : Word} (hp : p.getLsbD 31 = true) (bs : List Byte) :
    Function.Injective (fun c => crcFold p c bs) := by
  induction bs with
  | nil => exact fun _ _ h => h
  | cons b bs ih => exact fun _ _ h => (BitVec.xor_left_inj _).1 (crcShifts_injective hp 8 (ih h))

/-- A register after one of two bytes that differ. -/
theorem crcByte_ne {p c : Word} (hp : p.getLsbD 31 = true) {a b : Byte} (h : a ≠ b) :
    crcByte p c a ≠ crcByte p c b := by
  intro hc
  have := (BitVec.xor_right_inj _).1 (crcShifts_injective hp 8 hc)
  apply h
  have hw := congrArg (fun w : Word => w.setWidth 8) this
  simpa using hw

theorem crcIsoHdlc_topBit : crcIsoHdlc.polyRev.getLsbD 31 = true := by decide

end Sys2Proof.Machine
end

