-- ==== Sys2Proof/Laws/Memory.lean ====
section
/-! SUPPORT. The laws of buffer memory: a read after a write, and that every operation keeps the canonical form. -/

namespace Sys2Proof.Machine

/-! ### One byte -/

theorem Memory.stored_write_same (m : Memory) (a : Nat) (b : Byte) :
    Memory.stored (Memory.write m a b) a = some b := by
  induction m with
  | nil => simp [Memory.write, Memory.stored]
  | cons c m ih =>
    unfold Memory.write
    split
    · simp [Memory.stored]
    · split
      · simp [Memory.stored]
      · simp [Memory.stored, ih]; omega

theorem Memory.stored_write_ne {m : Memory} {a x : Nat} {b : Byte} (h : x ≠ a) :
    Memory.stored (Memory.write m a b) x = Memory.stored m x := by
  induction m with
  | nil => simp [Memory.write, Memory.stored, Ne.symm h]
  | cons c m ih =>
    unfold Memory.write
    split
    · simp [Memory.stored, Ne.symm h]
    · split
      · rename_i _ hc; simp [Memory.stored, Ne.symm h, ← hc]
      · simp [Memory.stored, ih]

@[simp] theorem Memory.read_write_same (m : Memory) (a : Nat) (b : Byte) :
    Memory.read (Memory.write m a b) a = b := by
  simp [Memory.read, Memory.stored_write_same]

theorem Memory.read_write_ne {m : Memory} {a x : Nat} {b : Byte} (h : x ≠ a) :
    Memory.read (Memory.write m a b) x = Memory.read m x := by
  simp [Memory.read, Memory.stored_write_ne h]

theorem Memory.mem_write {m : Memory} {a : Nat} {b : Byte} {c : Host.Cell} (h : c ∈ Memory.write m a b) :
    c = (a, b) ∨ c ∈ m := by
  induction m with
  | nil => simpa [Memory.write] using h
  | cons d m ih =>
    unfold Memory.write at h
    split at h
    · simpa using h
    · split at h
      · rcases List.mem_cons.1 h with h | h
        · exact .inl h
        · exact .inr (List.mem_cons_of_mem _ h)
      · rcases List.mem_cons.1 h with h | h
        · exact .inr (h ▸ List.mem_cons_self)
        · exact (ih h).imp id (List.mem_cons_of_mem _)

theorem Memory.write_wf {m : Memory} {a : Nat} {b : Byte} (hm : Memory.wf m) (ha : a < Config.memSize) :
    Memory.wf (Memory.write m a b) := by
  refine ⟨?_, fun c hc => ?_⟩
  · obtain ⟨hp, -⟩ := hm
    induction m with
    | nil => simp [Memory.write]
    | cons c m ih =>
      obtain ⟨hc, hp'⟩ := List.pairwise_cons.1 hp
      unfold Memory.write
      split
      · rename_i h
        refine List.pairwise_cons.2 ⟨fun d hd => ?_, hp⟩
        rcases List.mem_cons.1 hd with rfl | hd
        · exact h
        · exact Nat.lt_trans h (hc d hd)
      · split
        · rename_i h
          exact List.pairwise_cons.2 ⟨fun d hd => h ▸ hc d hd, hp'⟩
        · rename_i h h'
          refine List.pairwise_cons.2 ⟨fun d hd => ?_, ih hp'⟩
          rcases Memory.mem_write hd with rfl | hd
          · show c.1 < a
            omega
          · exact hc d hd
  · rcases Memory.mem_write hc with rfl | hc
    · exact ha
    · exact hm.2 c hc

/-! ### Sequences of bytes -/

theorem memWrite_wf {m : Memory} {a : Nat} {bs : List Byte} (hm : Memory.wf m)
    (ha : a + bs.length ≤ Config.memSize) : Memory.wf (memWrite m a bs) := by
  induction bs generalizing m a with
  | nil => exact hm
  | cons b bs ih =>
    simp only [List.length_cons] at ha
    exact ih (Memory.write_wf hm (by omega)) (by omega)

theorem drawRegion_wf {m : Memory} (a n k : Nat) (hm : Memory.wf m) : Memory.wf (drawRegion m a n k) := by
  induction n generalizing m a k with
  | zero => exact hm
  | succ n ih =>
    unfold drawRegion
    split
    · rename_i h; exact ih _ _ (Memory.write_wf hm h)
    · exact hm

theorem read_memWrite_outside {m : Memory} {a x : Nat} {bs : List Byte} (h : x < a ∨ a + bs.length ≤ x) :
    Memory.read (memWrite m a bs) x = Memory.read m x := by
  induction bs generalizing m a with
  | nil => rfl
  | cons b bs ih =>
    simp only [List.length_cons] at h
    rw [memWrite, ih (by omega), Memory.read_write_ne (by omega)]

theorem read_memWrite_inside {m : Memory} {a : Nat} {bs : List Byte} (i : Nat) (h : i < bs.length) :
    Memory.read (memWrite m a bs) (a + i) = bs[i] := by
  induction bs generalizing m a i with
  | nil => simp at h
  | cons b bs ih =>
    rw [memWrite]
    cases i with
    | zero => simp [read_memWrite_outside (m := Memory.write m a b) (a := a + 1) (x := a) (bs := bs) (by omega)]
    | succ i =>
      have := ih (m := Memory.write m a b) (a := a + 1) i (by simpa using h)
      simpa [Nat.add_comm, Nat.add_left_comm, Nat.add_assoc] using this

theorem read_drawRegion_outside {m : Memory} {a n k x : Nat} (h : x < a ∨ a + n ≤ x) :
    Memory.read (drawRegion m a n k) x = Memory.read m x := by
  induction n generalizing m a k with
  | zero => rfl
  | succ n ih =>
    unfold drawRegion
    split
    · rw [ih (by omega), Memory.read_write_ne (by omega)]
    · rfl

@[simp] theorem memRead_length (m : Memory) (a n : Nat) : (memRead m a n).length = n := by
  induction n generalizing a with
  | zero => rfl
  | succ n ih => simp [memRead, ih]

theorem memRead_getElem {m : Memory} {a n i : Nat} (h : i < (memRead m a n).length) :
    (memRead m a n)[i] = Memory.read m (a + i) := by
  induction n generalizing a i with
  | zero => simp at h
  | succ n ih =>
    cases i with
    | zero => simp [memRead]
    | succ i =>
      have := ih (a := a + 1) (i := i) (by simpa using h)
      simpa [memRead, Nat.add_comm, Nat.add_left_comm, Nat.add_assoc] using this

/-- What a read returns depends only on the bytes of its region. -/
theorem memRead_congr {m m' : Memory} {a n : Nat}
    (h : ∀ x, a ≤ x → x < a + n → Memory.read m x = Memory.read m' x) : memRead m a n = memRead m' a n := by
  induction n generalizing a with
  | zero => rfl
  | succ n ih =>
    rw [memRead, memRead, h a (by omega) (by omega), ih fun x h1 h2 => h x (by omega) (by omega)]

theorem memRead_append (m : Memory) (a n k : Nat) :
    memRead m a (n + k) = memRead m a n ++ memRead m (a + n) k := by
  induction n generalizing a with
  | zero => simp [memRead]
  | succ n ih =>
    rw [Nat.succ_add, memRead, memRead, ih, List.cons_append, Nat.add_right_comm, Nat.add_assoc a n 1]

/-- A write is read back whole. -/
theorem memRead_memWrite (m : Memory) (a : Nat) (bs : List Byte) : memRead (memWrite m a bs) a bs.length = bs := by
  refine List.ext_getElem (by simp) fun i h1 h2 => ?_
  rw [memRead_getElem, read_memWrite_inside i h2]

/-! ### Words and footers -/

theorem bytesLE32_length (v : Word) : (bytesLE32 v).length = 4 := rfl

@[simp] theorem footerBytes_length (o c k t : Word) : (footerBytes o c k t).length = 20 := rfl

/-- LE32(bytesLE32(v)) = v (R15). -/
theorem le32_bytes (v : Word) :
    le32 (v.extractLsb' 0 8) (v.extractLsb' 8 8) (v.extractLsb' 16 8) (v.extractLsb' 24 8) = v := by
  unfold le32
  ext i hi
  simp only [BitVec.getElem_append, BitVec.getElem_extractLsb']
  split
  · simp [← BitVec.getLsbD_eq_getElem]
  · split
    · rw [← BitVec.getLsbD_eq_getElem]; congr 1; omega
    · split
      · rw [← BitVec.getLsbD_eq_getElem]; congr 1; omega
      · rw [← BitVec.getLsbD_eq_getElem]; congr 1; omega

theorem readLE32_congr {m m' : Memory} {a b : Nat}
    (h : ∀ i < 4, Memory.read m (a + i) = Memory.read m' (b + i)) : readLE32 m a = readLE32 m' b := by
  unfold readLE32
  rw [h 1 (by omega), h 2 (by omega), h 3 (by omega), show Memory.read m a = Memory.read m' b from h 0 (by omega)]

theorem footerAt_congr {m m' : Memory} {a b : Nat}
    (h : ∀ i < 16, Memory.read m (a + i) = Memory.read m' (b + i)) : footerAt m a = footerAt m' b := by
  unfold footerAt
  rw [readLE32_congr (a := a) (b := b) fun i hi => h i (by omega),
    readLE32_congr (a := a + 4) (b := b + 4) fun i hi => by simpa [Nat.add_assoc] using h (4 + i) (by omega),
    readLE32_congr (a := a + 8) (b := b + 8) fun i hi => by simpa [Nat.add_assoc] using h (8 + i) (by omega),
    readLE32_congr (a := a + 12) (b := b + 12) fun i hi => by simpa [Nat.add_assoc] using h (12 + i) (by omega)]

/-- The bytes of a footer, read as a footer, give its fields. -/
theorem footerAt_of_bytes {m : Memory} {a : Nat} {o c k t : Word}
    (h : ∀ i, (hi : i < 20) → Memory.read m (a + i) = (footerBytes o c k t)[i]) : footerAt m a = ⟨o, c, k, t⟩ := by
  unfold footerAt readLE32
  simp only [Nat.add_assoc, Nat.reduceAdd]
  rw [show Memory.read m a = Memory.read m (a + 0) from rfl]
  rw [h 0, h 1, h 2, h 3, h 4, h 5, h 6, h 7, h 8, h 9, h 10, h 11, h 12, h 13, h 14, h 15] <;> try decide
  simp [footerBytes, bytesLE32, le32_bytes]

/-- The last four bytes of a footer are the magic. -/
theorem magic_of_bytes {m : Memory} {a : Nat} {o c k t : Word}
    (h : ∀ i, (hi : i < 20) → Memory.read m (a + i) = (footerBytes o c k t)[i]) :
    memRead m (a + 16) 4 = magicBytes := by
  simp only [memRead, Nat.add_assoc, Nat.reduceAdd]
  rw [h 16, h 17, h 18, h 19] <;> try decide
  rfl

theorem footerAt_memWrite (m : Memory) (a : Nat) (o c k t : Word) :
    footerAt (memWrite m a (footerBytes o c k t)) a = ⟨o, c, k, t⟩ :=
  footerAt_of_bytes fun i hi => read_memWrite_inside i (by simpa using hi)

/-! ### Going back from fields to bytes -/

/-- bytesLE32(LE32(s)) = s (R15). -/
theorem bytesLE32_le32 (b0 b1 b2 b3 : Byte) : bytesLE32 (le32 b0 b1 b2 b3) = [b0, b1, b2, b3] := by
  unfold bytesLE32 le32
  congr 1
  · exact BitVec.extractLsb'_append_eq_right
  congr 1
  · apply BitVec.eq_of_getLsbD_eq; intro i hi
    simp only [BitVec.getLsbD_extractLsb', BitVec.getLsbD_append, hi, decide_true, Bool.true_and]
    rw [if_neg (by omega), if_pos (by omega)]; congr 1; omega
  congr 1
  · apply BitVec.eq_of_getLsbD_eq; intro i hi
    simp only [BitVec.getLsbD_extractLsb', BitVec.getLsbD_append, hi, decide_true, Bool.true_and]
    rw [if_neg (by omega), if_neg (by omega), if_pos (by omega)]; congr 1; omega
  congr 1
  · apply BitVec.eq_of_getLsbD_eq; intro i hi
    simp only [BitVec.getLsbD_extractLsb', BitVec.getLsbD_append, hi, decide_true, Bool.true_and]
    rw [if_neg (by omega), if_neg (by omega), if_neg (by omega)]; congr 1; omega

/-- The 20 bytes of a region that ends with the magic are the footer of the fields read from it. -/
theorem footerBytes_of_footerAt {m : Memory} {a : Nat} (hm : memRead m (a + 16) 4 = magicBytes) :
    footerBytes (footerAt m a).osize (footerAt m a).csize (footerAt m a).crc (footerAt m a).typ = memRead m a 20 := by
  rw [show 20 = 16 + 4 from rfl, memRead_append, hm]
  unfold footerBytes footerAt readLE32
  simp only [bytesLE32_le32]
  simp only [memRead, Nat.add_assoc, List.cons_append, List.nil_append, Nat.reduceAdd]

/-- One byte of a region singled out. -/
theorem memRead_split {m : Memory} {a n x : Nat} (h1 : a ≤ x) (h2 : x < a + n) :
    memRead m a n = memRead m a (x - a) ++ Memory.read m x :: memRead m (x + 1) (a + n - (x + 1)) := by
  obtain ⟨k, rfl⟩ : ∃ k, x = a + k := ⟨x - a, by omega⟩
  obtain ⟨r, rfl⟩ : ∃ r, n = k + (r + 1) := ⟨n - k - 1, by omega⟩
  rw [memRead_append, memRead, show a + k - a = k by omega, show a + (k + (r + 1)) - (a + k + 1) = r by omega]

end Sys2Proof.Machine
end

