-- ==== Sys2Proof/Laws/Exec.lean ====
section
/-! SUPPORT. What each shared operation of the commands can do, said once. -/

namespace Sys2Proof.Machine

@[simp] theorem raise_eq (e : ErrCode) (s : State) : raise e s = .next (s.complete e) := rfl

@[simp] theorem succeed_eq (s : State) : succeed s = .next (s.complete .ok) := rfl

/-! ### The parse -/

theorem parseFooter_range {m : Memory} {a n : Nat} (h : ¬ inRange a n) : parseFooter m a n = .error .range := by
  unfold parseFooter; rw [if_pos h]

theorem parseFooter_tooShortForMagic {m : Memory} {a n : Nat} (h : inRange a n) (h4 : n < 4) :
    parseFooter m a n = .error .format := by
  unfold parseFooter; rw [if_neg (not_not.2 h), if_pos h4]

theorem parseFooter_badMagic {m : Memory} {a n : Nat} (h : inRange a n) (h4 : 4 ≤ n)
    (hm : memRead m (a + n - 4) 4 ≠ magicBytes) : parseFooter m a n = .error .format := by
  unfold parseFooter; rw [if_neg (not_not.2 h), if_neg (by omega), if_pos hm]

theorem parseFooter_short {m : Memory} {a n : Nat} (h : inRange a n) (h4 : 4 ≤ n)
    (hm : memRead m (a + n - 4) 4 = magicBytes) (h20 : n < 20) : parseFooter m a n = .error .short := by
  unfold parseFooter; rw [if_neg (not_not.2 h), if_neg (by omega), if_neg (not_not.2 hm), if_pos h20]

theorem parseFooter_ok {m : Memory} {a n : Nat} (h : inRange a n)
    (hm : memRead m (a + n - 4) 4 = magicBytes) (h20 : 20 ≤ n) :
    parseFooter m a n = .ok (footerAt m (a + n - 20)) := by
  unfold parseFooter
  rw [if_neg (not_not.2 h), if_neg (by omega), if_neg (not_not.2 hm), if_neg (by omega)]

/-- Everything a parse can answer. -/
theorem parseFooter_cases (m : Memory) (a n : Nat) :
    (parseFooter m a n = .error .range ∧ ¬ inRange a n) ∨
    (parseFooter m a n = .error .format ∧ inRange a n ∧ (n < 4 ∨ memRead m (a + n - 4) 4 ≠ magicBytes)) ∨
    (parseFooter m a n = .error .short ∧ inRange a n ∧ 4 ≤ n ∧ n < 20 ∧ memRead m (a + n - 4) 4 = magicBytes) ∨
    (parseFooter m a n = .ok (footerAt m (a + n - 20)) ∧ inRange a n ∧ 20 ≤ n ∧
      memRead m (a + n - 4) 4 = magicBytes) := by
  by_cases h : inRange a n
  · by_cases h4 : n < 4
    · exact .inr (.inl ⟨parseFooter_tooShortForMagic h h4, h, .inl h4⟩)
    · have h4 : 4 ≤ n := not_lt.1 h4
      by_cases hm : memRead m (a + n - 4) 4 = magicBytes
      · by_cases h20 : n < 20
        · exact .inr (.inr (.inl ⟨parseFooter_short h h4 hm h20, h, h4, h20, hm⟩))
        · have h20 : 20 ≤ n := not_lt.1 h20
          exact .inr (.inr (.inr ⟨parseFooter_ok h hm h20, h, h20, hm⟩))
      · exact .inr (.inl ⟨parseFooter_badMagic h h4 hm, h, .inr hm⟩)
  · exact .inl ⟨parseFooter_range h, h⟩

/-- The parse reads nothing outside its region. -/
theorem parseFooter_congr {m m' : Memory} {a n : Nat}
    (h : ∀ x, a ≤ x → x < a + n → Memory.read m x = Memory.read m' x) : parseFooter m a n = parseFooter m' a n := by
  unfold parseFooter
  by_cases hr : inRange a n
  · by_cases h4 : n < 4
    · simp [hr, h4]
    · rw [memRead_congr (m := m) (m' := m') (a := a + n - 4) (n := 4) fun x h1 h2 => h x (by omega) (by omega)]
      by_cases h20 : n < 20
      · simp [h20]
      · rw [footerAt_congr (m := m) (m' := m') (a := a + n - 20) (b := a + n - 20)
          fun i hi => h _ (by omega) (by omega)]
  · simp [hr]

/-! ### The type dispatch -/

theorem classify_stored {o c : Word} (h : o = c) : classify 0 o c = .ok .stored := by simp [classify, h]

theorem classify_storedSize {o c : Word} (h : o ≠ c) : classify 0 o c = .error .storedSize := by simp [classify, h]

theorem classify_lz4 {t o c : Word} (h : t = 1 ∨ t = 2) : classify t o c = .ok .lz4 := by
  rcases h with rfl | rfl <;> rfl

theorem classify_unknown {t o c : Word} (h0 : t ≠ 0) (h1 : t ≠ 1) (h2 : t ≠ 2) :
    classify t o c = .error .unknownType := by
  unfold classify; rw [if_neg h0, if_neg (not_or.2 ⟨h1, h2⟩)]

/-- Everything a type dispatch can answer. -/
theorem classify_cases (t o c : Word) :
    (classify t o c = .ok .stored ∧ t = 0 ∧ o = c) ∨ (classify t o c = .error .storedSize ∧ t = 0 ∧ o ≠ c) ∨
    (classify t o c = .ok .lz4 ∧ (t = 1 ∨ t = 2)) ∨
    (classify t o c = .error .unknownType ∧ t ≠ 0 ∧ t ≠ 1 ∧ t ≠ 2) := by
  by_cases h0 : t = 0
  · subst h0
    by_cases hs : o = c
    · exact .inl ⟨classify_stored hs, rfl, hs⟩
    · exact .inr (.inl ⟨classify_storedSize hs, rfl, hs⟩)
  · by_cases h12 : t = 1 ∨ t = 2
    · exact .inr (.inr (.inl ⟨classify_lz4 h12, h12⟩))
    · have := not_or.1 h12
      exact .inr (.inr (.inr ⟨classify_unknown h0 this.1 this.2, h0, this.1, this.2⟩))

/-- Everything the dispatch on the footer registers can do. -/
theorem dispatchType_cases (s : State) :
    (dispatchType s = .next ((s.setCls .stored).complete .ok) ∧ s.fType = 0 ∧ s.fOsize = s.fCsize) ∨
    (dispatchType s = .next (s.complete .storedSize) ∧ s.fType = 0 ∧ s.fOsize ≠ s.fCsize) ∨
    (dispatchType s = .next ((s.setCls .lz4).complete .ok) ∧ (s.fType = 1 ∨ s.fType = 2)) ∨
    (dispatchType s = .next (s.complete .unknownType) ∧ s.fType ≠ 0 ∧ s.fType ≠ 1 ∧ s.fType ≠ 2) := by
  unfold dispatchType
  rcases classify_cases s.fType s.fOsize s.fCsize with ⟨h, h'⟩ | ⟨h, h'⟩ | ⟨h, h'⟩ | ⟨h, h'⟩ <;> rw [h]
  · exact .inl ⟨rfl, h'⟩
  · exact .inr (.inl ⟨rfl, h'⟩)
  · exact .inr (.inr (.inl ⟨rfl, h'⟩))
  · exact .inr (.inr (.inr ⟨rfl, h'⟩))

/-! ### The checksum -/

theorem checkCrc_match {c : Word} {s : State} {k : State → Host.Outcome State Fault Refusal} (h : c = s.fCrc) :
    checkCrc c s k = k (s.setCrcOut c) := by simp [checkCrc, h]

theorem checkCrc_mismatch {c : Word} {s : State} {k : State → Host.Outcome State Fault Refusal} (h : c ≠ s.fCrc) :
    checkCrc c s k = .next ((s.setCrcOut c).complete .checksum) := by simp [checkCrc, h]

/-- The CRC over SRC depends only on the bytes it covers. -/
theorem srcCrc_congr {s t : State} {n : Nat} (ha : s.srcAddr = t.srcAddr)
    (h : ∀ x, s.srcAddr.toNat ≤ x → x < s.srcAddr.toNat + n → Memory.read s.mem x = Memory.read t.mem x) :
    srcCrc s n = srcCrc t n := by
  unfold srcCrc; rw [← ha, memRead_congr h]

/-! ### The commands -/

theorem execParse_error {s : State} {e : ErrCode} (h : parseFooter s.mem s.srcAddr.toNat s.srcLen.toNat = .error e) :
    execParse s = .next (s.complete e) := by simp [execParse, h]

theorem execParse_ok {s : State} {f : Footer} (h : parseFooter s.mem s.srcAddr.toNat s.srcLen.toNat = .ok f) :
    execParse s = .next ((s.setFooter f (s.srcLen - 20)).complete .ok) := by simp [execParse, h]

theorem execBuild_range {s : State} (h : ¬ s.dst.inRange) : execBuild s = .next (s.complete .range) := by
  simp only [execBuild, if_pos h, raise_eq]

theorem execBuild_ok {s : State} (h : s.dst.inRange) :
    execBuild s = .next ((s.setMem
      (memWrite s.mem s.dstAddr.toNat (footerBytes s.fOsize s.fCsize s.fCrc s.fType))).complete .ok) := by
  simp only [execBuild, if_neg (not_not.2 h), succeed_eq]

theorem execCrc_range {s : State} (h : ¬ s.src.inRange) : execCrc s = .next (s.complete .range) := by
  simp only [execCrc, if_pos h, raise_eq]

theorem execCrc_ok {s : State} (h : s.src.inRange) :
    execCrc s = .next ((s.setCrcOut (srcCrc s s.srcLen.toNat)).complete .ok) := by
  simp only [execCrc, if_neg (not_not.2 h), succeed_eq]

theorem execVsize_ok {s : State} (h : s.srcLen = s.fCsize) : execVsize s = .next (s.complete .ok) := by
  simp [execVsize, h]

theorem execVsize_size {s : State} (h : s.srcLen ≠ s.fCsize) : execVsize s = .next (s.complete .size) := by
  simp [execVsize, h]

theorem execVcrc_range {s : State} (h : ¬ s.src.inRange) : execVcrc s = .next (s.complete .range) := by
  simp only [execVcrc, if_pos h, raise_eq]

theorem execVcrc_ok {s : State} (h : s.src.inRange) (hc : srcCrc s s.srcLen.toNat = s.fCrc) :
    execVcrc s = .next ((s.setCrcOut (srcCrc s s.srcLen.toNat)).complete .ok) := by
  simp only [execVcrc, if_neg (not_not.2 h), checkCrc_match hc, succeed_eq]

theorem execVcrc_checksum {s : State} (h : s.src.inRange) (hc : srcCrc s s.srcLen.toNat ≠ s.fCrc) :
    execVcrc s = .next ((s.setCrcOut (srcCrc s s.srcLen.toNat)).complete .checksum) := by
  simp only [execVcrc, if_neg (not_not.2 h), checkCrc_mismatch hc]

theorem execVdec_ok {s : State} (h : s.lz4Res ≠ 0xFFFFFFFF#32) (ho : s.lz4Res = s.fOsize) :
    execVdec s = .next (s.complete .ok) := by
  unfold execVdec; rw [if_neg h, if_neg (not_not.2 ho)]; rfl

theorem execVdec_decodedSize {s : State} (h : s.lz4Res = 0xFFFFFFFF#32 ∨ s.lz4Res ≠ s.fOsize) :
    execVdec s = .next (s.complete .decodedSize) := by
  unfold execVdec
  by_cases h' : s.lz4Res = 0xFFFFFFFF#32
  · rw [if_pos h']; rfl
  · rw [if_neg h', if_pos (h.resolve_left h')]; rfl

theorem execGate_error {s : State} {e : ErrCode} (h : parseFooter s.mem s.srcAddr.toNat s.srcLen.toNat = .error e) :
    execGate s = .next ((s.setCls .noClass).complete e) := by simp [execGate, h]

theorem execGate_parsed {s : State} {f : Footer} (h : parseFooter s.mem s.srcAddr.toNat s.srcLen.toNat = .ok f) :
    execGate s = gateChecks ((s.setCls .noClass).setFooter f (s.srcLen - 20)) := by simp [execGate, h]

theorem gateChecks_size {s : State} (h : s.payLen ≠ s.fCsize) : gateChecks s = .next (s.complete .size) := by
  simp [gateChecks, h]

theorem gateChecks_checksum {s : State} (h : s.payLen = s.fCsize) (hc : srcCrc s s.payLen.toNat ≠ s.fCrc) :
    gateChecks s = .next ((s.setCrcOut (srcCrc s s.payLen.toNat)).complete .checksum) := by
  rw [gateChecks, if_neg (not_not.2 h), checkCrc_mismatch hc]

theorem gateChecks_dispatch {s : State} (h : s.payLen = s.fCsize) (hc : srcCrc s s.payLen.toNat = s.fCrc) :
    gateChecks s = dispatchType (s.setCrcOut (srcCrc s s.payLen.toNat)) := by
  rw [gateChecks, if_neg (not_not.2 h), checkCrc_match hc]

theorem execSeal_range {s : State} (h : ¬ s.src.inRange ∨ ¬ s.dst.inRange) :
    execSeal s = .next (s.complete .range) := by
  unfold execSeal
  by_cases hs : s.src.inRange
  · rw [if_neg (not_not.2 hs), if_pos (h.resolve_left (not_not.2 hs))]; rfl
  · rw [if_pos hs]; rfl

theorem execSeal_ok {s : State} (hs : s.src.inRange) (hd : s.dst.inRange) :
    execSeal s = .next ((sealWith (srcCrc s s.srcLen.toNat) s).complete .ok) := by
  unfold execSeal; rw [if_neg (not_not.2 hs), if_neg (not_not.2 hd)]; rfl

section
variable (c : Word) (s : State)
@[simp] theorem sealWith_mem : (sealWith c s).mem =
    memWrite s.mem s.dstAddr.toNat (footerBytes s.fOsize s.srcLen c s.fType) := by rw [sealWith, State.setMem_mem]
@[simp] theorem sealWith_crcOut : (sealWith c s).crcOut = c := rfl
@[simp] theorem sealWith_fCrc : (sealWith c s).fCrc = c := rfl
@[simp] theorem sealWith_fCsize : (sealWith c s).fCsize = s.srcLen := rfl
@[simp] theorem sealWith_srcAddr : (sealWith c s).srcAddr = s.srcAddr := rfl
@[simp] theorem sealWith_srcLen : (sealWith c s).srcLen = s.srcLen := rfl
@[simp] theorem sealWith_dstAddr : (sealWith c s).dstAddr = s.dstAddr := rfl
@[simp] theorem sealWith_fOsize : (sealWith c s).fOsize = s.fOsize := rfl
@[simp] theorem sealWith_fType : (sealWith c s).fType = s.fType := rfl
@[simp] theorem sealWith_proven : (sealWith c s).proven = s.proven := rfl
@[simp] theorem sealWith_memKind : (sealWith c s).memKind = s.memKind := rfl
end

/-! ### Everything a command can answer -/

/-- PARSE: an error that writes nothing, or a footer and OK. -/
theorem execParse_cases (s : State) :
    (∃ e, execParse s = .next (s.complete e) ∧ (e = .range ∨ e = .format ∨ e = .short)) ∨
    (∃ f n, execParse s = .next ((s.setFooter f n).complete .ok)) := by
  rcases parseFooter_cases s.mem s.srcAddr.toNat s.srcLen.toNat with h | h | h | h
  · exact .inl ⟨_, execParse_error h.1, by simp⟩
  · exact .inl ⟨_, execParse_error h.1, by simp⟩
  · exact .inl ⟨_, execParse_error h.1, by simp⟩
  · exact .inr ⟨_, _, execParse_ok h.1⟩

/-- GATE: an error of its parse, or one of its later outcomes with the footer registers written. -/
theorem execGate_cases (s : State) :
    (∃ e, execGate s = .next ((s.setCls .noClass).complete e) ∧ (e = .range ∨ e = .format ∨ e = .short)) ∨
    (∃ f n, let p := (s.setCls .noClass).setFooter f n
      execGate s = .next (p.complete .size) ∨
      ∃ c, execGate s = .next ((p.setCrcOut c).complete .checksum) ∨
        execGate s = .next ((p.setCrcOut c).complete .storedSize) ∨
        execGate s = .next ((p.setCrcOut c).complete .unknownType) ∨
        ∃ k, execGate s = .next (((p.setCrcOut c).setCls k).complete .ok)) := by
  rcases parseFooter_cases s.mem s.srcAddr.toNat s.srcLen.toNat with h | h | h | h
  · exact .inl ⟨_, execGate_error h.1, by simp⟩
  · exact .inl ⟨_, execGate_error h.1, by simp⟩
  · exact .inl ⟨_, execGate_error h.1, by simp⟩
  · refine .inr ⟨footerAt s.mem (s.srcAddr.toNat + s.srcLen.toNat - 20), s.srcLen - 20, ?_⟩
    rw [execGate_parsed h.1]
    generalize (s.setCls .noClass).setFooter (footerAt s.mem (s.srcAddr.toNat + s.srcLen.toNat - 20)) (s.srcLen - 20) = p
    by_cases h1 : p.payLen = p.fCsize
    · refine .inr ⟨srcCrc p p.payLen.toNat, ?_⟩
      by_cases h2 : srcCrc p p.payLen.toNat = p.fCrc
      · rw [gateChecks_dispatch h1 h2]
        rcases dispatchType_cases (p.setCrcOut (srcCrc p p.payLen.toNat)) with h | h | h | h <;> rw [h.1]
        · exact .inr (.inr (.inr ⟨_, rfl⟩))
        · exact .inr (.inl rfl)
        · exact .inr (.inr (.inr ⟨_, rfl⟩))
        · exact .inr (.inr (.inl rfl))
      · exact .inl (gateChecks_checksum h1 h2)
    · exact .inl (gateChecks_size h1)

/-- BUILD in range writes 20 bytes and completes with OK. -/
theorem execBuild_writes (s : State) (h : s.dst.inRange) : ∃ bs : List Byte, bs.length = 20 ∧
    execBuild s = .next ((s.setMem (memWrite s.mem s.dstAddr.toNat bs)).complete .ok) :=
  ⟨_, footerBytes_length .., execBuild_ok h⟩

/-- SEAL in range writes three registers and 20 bytes and completes with OK. -/
theorem execSeal_writes (s : State) (h : s.src.inRange) (h' : s.dst.inRange) :
    ∃ (bs : List Byte) (c : Word), bs.length = 20 ∧
      execSeal s = .next (((((s.setCrcOut c).setFCrc c).setFCsize s.srcLen).setMem
        (memWrite s.mem s.dstAddr.toNat bs)).complete .ok) :=
  ⟨_, _, footerBytes_length .., execSeal_ok h h'⟩

end Sys2Proof.Machine
end

