-- ==== Sys2Proof/Laws/PerInstr.lean ====
section
/-! SUPPORT. One lemma for each constructor of Instr: its word lies in its row of spec/opcode_table.json. -/

namespace Sys2Proof.Laws.EncodesItsRow

/-- The word of a well-formed instruction matches its row's mask and match; the words with nonzero reserved bits, whose row
has no mask, are told apart by those bits (R111, R113, R114). -/
def Statement (i : Instr) : Prop :=
  i.wf = true → encode i &&& (tableRow i).1 = (tableRow i).2 ∧
    ((tableRow i).1 = 0#32 ↔ (encode i).extractLsb' 4 28 ≠ 0#28)

theorem nop : Statement .nop := by unfold Statement; decide
theorem parse : Statement .parse := by unfold Statement; decide
theorem build : Statement .build := by unfold Statement; decide
theorem crc : Statement .crc := by unfold Statement; decide
theorem vsize : Statement .vsize := by unfold Statement; decide
theorem vcrc : Statement .vcrc := by unfold Statement; decide
theorem typechk : Statement .typechk := by unfold Statement; decide
theorem vdec : Statement .vdec := by unfold Statement; decide
theorem gate : Statement .gate := by unfold Statement; decide
theorem sealFooter : Statement .sealFooter := by unfold Statement; decide

theorem illegalAB (o : BitVec 1) : Statement (.illegalAB o) := by
  revert o; unfold Statement; decide

theorem illegalCF (o : BitVec 2) : Statement (.illegalCF o) := by
  revert o; unfold Statement; decide

theorem illegalZ (z : BitVec 28) (op : BitVec 4) : Statement (.illegalZ z op) := by
  intro h
  have hz : z ≠ 0#28 := by simpa [Instr.wf] using h
  refine ⟨by simp [tableRow], ⟨fun _ => ?_, fun _ => rfl⟩⟩
  rw [encode, BitVec.extractLsb'_append_eq_left]
  exact hz

end Sys2Proof.Laws.EncodesItsRow
end

