-- ==== Sys2Proof/Laws/Step.lean ====
section
/-! SUPPORT. Everything one step can do (`step_cases`), and the fields of STATUS and of the state after each kind of it. -/

namespace Sys2Proof.Machine

/-! ### STATUS bit by bit -/

theorem statusWord_low (s : State) : (statusWord s).getLsbD 0 = busyFlag s ∧ (statusWord s).getLsbD 1 = s.done ∧
    (statusWord s).getLsbD 2 = s.rej ∧ (statusWord s).getLsbD 3 = false := by
  unfold statusWord
  refine ⟨?_, ?_, ?_, ?_⟩ <;> generalize errCode s.err = e <;> generalize busyFlag s = b <;> generalize s.done = d <;>
    generalize s.rej = r <;> revert e b d r <;> decide

theorem statusWord_high (s : State) :
    (statusWord s).extractLsb' 4 4 = errCode s.err ∧ (statusWord s).extractLsb' 8 24 = 0 := by
  unfold statusWord
  refine ⟨?_, ?_⟩ <;> generalize errCode s.err = e <;> generalize busyFlag s = b <;> generalize s.done = d <;>
    generalize s.rej = r <;> revert e b d r <;> decide

/-! ### Register accesses -/

theorem eventStep_wr (r : Reg) (v : Word) (s : State) : eventStep (wr r v) s = .next (writeReg r v s) :=
  busAccess_reg r _

theorem eventStep_rd (r : Reg) (s : State) : eventStep (rd r) s = .next (s.setReply (.reg (readReg r s))) :=
  busAccess_reg r _

theorem step_wr (s : State) (rest : List Event) (r : Reg) (v : Word) :
    step (s.setAgenda (wr r v :: rest)) = .next (writeReg r v (s.setAgenda rest)) := eventStep_wr r v _

theorem regOffset_of_regAt {off : Nat} {r : Reg} (h : regAt off = some r) : off = regOffset r := by
  unfold regAt at h
  split at h <;> first | (cases h; rfl) | cases h

/-- A register write that answers a state is a `wr` of the host notation. -/
theorem hostRegWrite_next {off bytes : Nat} {v : Word} {s t : State} (h : hostRegWrite off bytes v s = .next t) :
    ∃ r, Event.regWrite off bytes v = wr r v ∧ t = writeReg r v s := by
  have hb : bytes = 4 := by
    by_contra hb
    rw [hostRegWrite, busAccess_undefined _ (.inl hb)] at h
    cases h
  obtain ⟨r, hr, rfl⟩ := busAccess_next h
  exact ⟨r, by rw [regOffset_of_regAt hr, hb]; rfl, rfl⟩

theorem wr_injective {r q : Reg} {v w : Word} (h : wr r v = wr q w) : r = q ∧ v = w := by
  unfold wr at h
  injection h with h1 _ h3
  have := congrArg regAt h1
  simp at this
  exact ⟨this, h3⟩

section
variable (r : Reg) (v : Word) (s : State)

theorem writeReg_rej : (writeReg r v s).rej =
    if s.phase = .busy ∧ (r = .cmd ∨ r ∈ argumentRegs) then true
    else if r = .status then s.rej && !v.getLsbD 2 else s.rej := by
  cases hp : s.phase <;> cases r <;> simp [writeReg, ifIdle, hp, writeStatus_eq, State.issue, argumentRegs]

theorem writeReg_done : (writeReg r v s).done =
    if s.phase = .idle ∧ r = .cmd then false else if r = .status then s.done && !v.getLsbD 1 else s.done := by
  cases hp : s.phase <;> cases r <;> simp [writeReg, ifIdle, hp, writeStatus_eq, State.issue]

theorem writeReg_phase : (writeReg r v s).phase = if r = .cmd then .busy else s.phase := by
  cases hp : s.phase <;> cases r <;> simp [writeReg, ifIdle, hp, writeStatus_eq, State.issue]

theorem writeReg_agenda : (writeReg r v s).agenda = s.agenda := by
  cases hp : s.phase <;> cases r <;> simp [writeReg, ifIdle, hp, writeStatus_eq, State.issue]

end

/-! ### Completions and reset -/

/-- The note of a completion touches the list of covered containers alone. -/
theorem noteCompletion_keeps (i : Instr) (t : State) :
    (noteCompletion i t).err = t.err ∧ (noteCompletion i t).phase = t.phase ∧ (noteCompletion i t).done = t.done ∧
      (noteCompletion i t).rej = t.rej ∧ (noteCompletion i t).mem = t.mem ∧
      (noteCompletion i t).agenda = t.agenda ∧ (noteCompletion i t).memKind = t.memKind := by
  rw [noteCompletion_eq]; exact ⟨rfl, rfl, rfl, rfl, rfl, rfl, rfl⟩

theorem runCommand_next {i : Instr} {s t : State} (h : runCommand i s = .next t) :
    ∃ u, exec i s = .next u ∧ t = noteCompletion i u := by
  unfold runCommand at h
  cases he : exec i s with
  | next u => rw [he] at h; cases h; exact ⟨u, rfl, rfl⟩
  | fault r => rw [he] at h; cases h
  | refused r => rw [he] at h; cases h

theorem resetStep_readReg (s : State) (r : Reg) : readReg r (resetStep s) = readReg r State.reset := by
  cases r <;> rfl

/-- A reset that aborts no BUILD and no SEAL leaves memory alone. -/
theorem abortWrites_of_no_write {s : State} (h : s.phase = .idle ∨ writesDst (decodeWord s.cmdword) = false) :
    abortWrites s = s := by
  unfold abortWrites
  cases hp : s.phase with
  | idle => rw [inFlight_idle hp]
  | busy => simp only [inFlight_busy hp, h.resolve_left (by rw [hp]; simp)]; rfl

/-! ### The regions of the command in flight -/

theorem Region.contains_iff {r : Region} {a : Nat} : r.contains a = true ↔ r.start ≤ a ∧ a < r.start + r.len := by
  simp [Region.contains]

theorem srcBusy_iff {s : State} {a : Nat} (hb : s.phase = .busy) : s.srcBusy a = true ↔
    readsSrc (decodeWord s.cmdword) = true ∧ s.srcAddr.toNat ≤ a ∧ a < s.srcAddr.toNat + s.srcLen.toNat := by
  simp only [State.srcBusy, inFlight_busy hb, Bool.and_eq_true, Region.contains_iff, State.src_start, State.src_len]

theorem dstBusy_iff {s : State} {a : Nat} (hb : s.phase = .busy) : s.dstBusy a = true ↔
    writesDst (decodeWord s.cmdword) = true ∧ s.dstAddr.toNat ≤ a ∧ a < s.dstAddr.toNat + 20 := by
  simp only [State.dstBusy, inFlight_busy hb, Bool.and_eq_true, Region.contains_iff, State.dst_start, State.dst_len]

/-- Where a byte of buffer memory and a command's regions lie does not depend on the agenda. -/
@[simp] theorem State.nonOrdinary_setAgenda (s : State) (es : List Event) (a : Nat) :
    (s.setAgenda es).nonOrdinary a = s.nonOrdinary a := rfl
@[simp] theorem State.misplaced_setAgenda (s : State) (es : List Event) (i : Instr) :
    (s.setAgenda es).misplaced i = s.misplaced i := rfl

/-- The regions a command accesses: SRC and DST as it reads and writes them, or none (R82, R84). -/
theorem State.mem_touched {s : State} {i : Instr} {r : Region} : r ∈ s.touched i ↔
    (readsSrc i = true → s.src.inRange) ∧ (writesDst i = true → s.dst.inRange) ∧
      (readsSrc i = true ∧ r = s.src ∨ writesDst i = true ∧ r = s.dst) := by
  unfold State.touched
  split
  · rename_i h; simp only [List.not_mem_nil, false_iff]; tauto
  · rename_i h
    have hr : r ∈ (if readsSrc i then [s.src] else []) ++ (if writesDst i then [s.dst] else []) ↔
        readsSrc i = true ∧ r = s.src ∨ writesDst i = true ∧ r = s.dst := by
      cases readsSrc i <;> cases writesDst i <;> simp
    rw [hr]; tauto

theorem Region.overlaps_iff {r q : Region} : r.overlaps q = true ↔ ∃ x, r.contains x = true ∧ q.contains x = true := by
  simp only [Region.overlaps, Region.contains_iff, decide_eq_true_eq]
  exact ⟨fun h => ⟨max r.start q.start, by omega⟩, fun ⟨x, h⟩ => by omega⟩

/-- A command is misplaced exactly when it accesses a byte of a device window or a hole (R95). -/
theorem State.misplaced_iff {s : State} {i : Instr} :
    s.misplaced i = true ↔ ∃ x, s.nonOrdinary x = true ∧ accessesByte i s x := by
  simp only [State.misplaced, State.nonOrdinary, List.any_eq_true, State.mem_touched, Region.overlaps_iff]
  constructor
  · rintro ⟨r, ⟨h1, h2, h3⟩, q, hq, x, hr, hx⟩
    refine ⟨x, ⟨q, hq, hx⟩, h1, h2, h3.imp ?_ ?_⟩ <;> (rintro ⟨h, rfl⟩; exact ⟨h, Region.contains_iff.1 hr⟩)
  · rintro ⟨x, ⟨q, hq, hx⟩, h1, h2, h | h⟩
    · exact ⟨s.src, ⟨h1, h2, .inl ⟨h.1, rfl⟩⟩, q, hq, x, Region.contains_iff.2 h.2, hx⟩
    · exact ⟨s.dst, ⟨h1, h2, .inr ⟨h.1, rfl⟩⟩, q, hq, x, Region.contains_iff.2 h.2, hx⟩

/-! ### The step -/

theorem unitStep_next {s t : State} (h : unitStep s = .next t) :
    (s.phase = .idle ∧ t = s) ∨
    (s.phase = .busy ∧ s.misplaced (decodeWord s.cmdword) = false ∧
      ∃ u, exec (decodeWord s.cmdword) s = .next u ∧ t = noteCompletion (decodeWord s.cmdword) u) := by
  cases hp : s.phase with
  | idle => rw [unitStep_idle hp] at h; cases h; exact .inl ⟨rfl, rfl⟩
  | busy =>
    cases hm : s.misplaced (decodeWord s.cmdword) with
    | true => rw [unitStep_misplaced hp hm] at h; cases h
    | false => rw [unitStep_busy hp hm] at h; exact .inr ⟨rfl, rfl, runCommand_next h⟩

/-- Everything a step that answers a state can be: an idle unit's turn; a completion; a register write; an access that
only reads; a memory write outside the regions in use, in ordinary memory; a reset. -/
theorem step_cases {s t : State} (h : step s = .next t) :
    (s.phase = .idle ∧ (s.agenda = [] ∧ t = s ∨ ∃ rest, s.agenda = .unit :: rest ∧ t = s.setAgenda rest)) ∨
    (s.phase = .busy ∧ s.misplaced (decodeWord s.cmdword) = false ∧ ∃ rest u,
      (s.agenda = [] ∧ rest = [] ∨ s.agenda = .unit :: rest) ∧
      exec (decodeWord s.cmdword) (s.setAgenda rest) = .next u ∧ t = noteCompletion (decodeWord s.cmdword) u) ∨
    (∃ r v rest, s.agenda = wr r v :: rest ∧ t = writeReg r v (s.setAgenda rest)) ∨
    (∃ e rest es p d, s.agenda = e :: rest ∧ e ≠ .unit ∧ e ≠ .reset ∧ (∀ r v, e ≠ wr r v) ∧
      t = { s with agenda := es, reply := p, draws := d }) ∨
    (∃ a b rest, s.agenda = .memWrite a b :: rest ∧ s.srcBusy a.toNat = false ∧ s.dstBusy a.toNat = false ∧
      s.nonOrdinary a.toNat = false ∧
      t = ((s.setAgenda rest).setMem (Memory.write s.mem a.toNat b)).noteWritten ⟨a.toNat, 1⟩) ∨
    (∃ rest, s.agenda = .reset :: rest ∧ t = resetStep (s.setAgenda rest)) := by
  cases ha : s.agenda with
  | nil =>
    rw [step_empty ha] at h
    rcases unitStep_next h with ⟨h1, h2⟩ | ⟨h1, hm, u, h2, h3⟩
    · exact .inl ⟨h1, .inl ⟨rfl, h2⟩⟩
    · have hs : s.setAgenda [] = s := by unfold State.setAgenda; rw [← ha]
      exact .inr (.inl ⟨h1, hm, [], u, .inl ⟨rfl, rfl⟩, hs.symm ▸ h2, h3⟩)
  | cons e rest =>
    rw [step_cons ha] at h
    cases e with
    | unit =>
      rcases unitStep_next (s := s.setAgenda rest) h with ⟨h1, h2⟩ | ⟨h1, hm, u, h2, h3⟩
      · exact .inl ⟨h1, .inr ⟨rest, rfl, h2⟩⟩
      · exact .inr (.inl ⟨h1, hm, rest, u, .inr rfl, h2, h3⟩)
    | regRead off bytes =>
      obtain ⟨r, -, rfl⟩ := busAccess_next h
      exact .inr (.inr (.inr (.inl ⟨_, rest, rest, _, s.draws, rfl, by simp, by simp, by simp [wr], rfl⟩)))
    | regWrite off bytes v =>
      obtain ⟨r, hr, rfl⟩ := hostRegWrite_next h
      exact .inr (.inr (.inl ⟨r, v, rest, by rw [hr], rfl⟩))
    | memRead a =>
      have h' : hostMemRead a (s.setAgenda rest) = .next t := h
      unfold hostMemRead at h'
      repeat' split at h'
      all_goals cases h'
      all_goals exact .inr (.inr (.inr (.inl ⟨_, rest, rest, _, _, rfl, by simp, by simp, by simp [wr], rfl⟩)))
    | memWrite a b =>
      obtain ⟨h1, h2, h3, h4⟩ := hostMemWrite_next h
      exact .inr (.inr (.inr (.inr (.inl ⟨a, b, rest, rfl, h1, h2, h3, h4⟩))))
    | wait =>
      cases h
      exact .inr (.inr (.inr (.inl ⟨_, rest, _, _, s.draws, rfl, by simp, by simp, by simp [wr], rfl⟩)))
    | usePayload p =>
      have h' : hostUsePayload p (s.setAgenda rest) = .next t := h
      unfold hostUsePayload at h'
      split at h' <;> cases h'
      exact .inr (.inr (.inr (.inl ⟨_, rest, rest, s.reply, s.draws, rfl, by simp, by simp, by simp [wr], rfl⟩)))
    | reset => cases h; exact .inr (.inr (.inr (.inr (.inr ⟨rest, rfl, rfl⟩))))

/-! ### Runs, for any machine behind the host's interface -/

section
variable {M : Host.Core} {s t : M.State}

theorem run_of_next (n : Nat) (h : M.step s = .next t) : M.run (n + 1) s = M.run n t := by
  rw [Host.Core.run, h]

theorem run_of_fault {r : M.Fault} (n : Nat) (h : M.step s = .fault r) : M.run (n + 1) s = .fault r := by
  rw [Host.Core.run, h]

theorem run_of_refused {r : M.Refusal} (n : Nat) (h : M.step s = .refused r) : M.run (n + 1) s = .refused r := by
  rw [Host.Core.run, h]

end

end Sys2Proof.Machine
end

