-- ==== Sys2Proof/Laws/Terms.lean ====
section
/-! SUPPORT. The terms of Safety.lean beside the machine's own operations: words and the magic as formulas over single
bytes, the footer that BUILD and SEAL write, and what a container that passes GATE looks like. -/

namespace Sys2Proof.Machine

/-! ### Bytes, words, the magic -/

/-- The sum of R15 is the machine's little-endian read. -/
theorem wordAt_eq (m : Memory) (a : Nat) : wordAt m a = readLE32 m a := by
  unfold wordAt readLE32 le32
  apply BitVec.eq_of_toNat_eq
  have h0 := (Memory.read m a).isLt
  have h1 := (Memory.read m (a + 1)).isLt
  have h2 := (Memory.read m (a + 2)).isLt
  have h3 := (Memory.read m (a + 3)).isLt
  simp only [BitVec.toNat_append, BitVec.toNat_ofNat]
  rw [← Nat.shiftLeft_add_eq_or_of_lt h2, ← Nat.shiftLeft_add_eq_or_of_lt h1, ← Nat.shiftLeft_add_eq_or_of_lt h0]
  simp only [Nat.shiftLeft_eq]
  omega

theorem magicAt_iff (m : Memory) (a : Nat) : magicAt m a ↔ memRead m a 4 = magicBytes := by
  simp [magicAt, memRead, magicBytes, Nat.add_assoc]

theorem footerAt_eq_words (m : Memory) (a : Nat) :
    footerAt m a = ⟨wordAt m a, wordAt m (a + 4), wordAt m (a + 8), wordAt m (a + 12)⟩ := by
  simp [footerAt, wordAt_eq]

/-- A footer written is the footer of its fields. -/
theorem footerIsAt_memWrite (m : Memory) (a : Nat) (o c k t : Word) :
    footerIsAt (memWrite m a (footerBytes o c k t)) a o c k t := by
  have h := footerAt_memWrite m a o c k t
  rw [footerAt_eq_words] at h
  simp only [Footer.mk.injEq] at h
  exact ⟨h.1, h.2.1, h.2.2.1, h.2.2.2,
    (magicAt_iff _ _).2 (magic_of_bytes fun i hi => read_memWrite_inside i (by simpa using hi))⟩

/-! ### Lengths and types -/

/-- L - 20 as a number and as a word. -/
theorem ofNat_sub_footerLen (n : Word) (h : 20 ≤ n.toNat) : BitVec.ofNat 32 (n.toNat - 20) = n - 20 := by
  apply BitVec.eq_of_toNat_eq
  rw [BitVec.toNat_sub]
  simp
  have := n.isLt
  omega

theorem toNat_sub_footerLen (n : Word) (h : 20 ≤ n.toNat) : (n - 20).toNat = n.toNat - 20 := by
  rw [← ofNat_sub_footerLen n h]
  simp
  have := n.isLt
  omega

theorem type_of_two_lt {t : Word} (h : 2 < t.toNat) : t ≠ 0 ∧ t ≠ 1 ∧ t ≠ 2 := by
  refine ⟨?_, ?_, ?_⟩ <;> rintro rfl <;> simp at h

/-! ### A container that gets past the checksum step -/

/-- What GATE has seen of its container when it reports OK, STORED_SIZE or UNKNOWN_TYPE. -/
theorem execGate_passed {s t : State} (h : execGate s = .next t)
    (he : t.err = .ok ∨ t.err = .storedSize ∨ t.err = .unknownType) :
    let f := footerAt s.mem (s.srcAddr.toNat + s.srcLen.toNat - 20)
    inRange s.srcAddr.toNat s.srcLen.toNat ∧ 20 ≤ s.srcLen.toNat ∧
      memRead s.mem (s.srcAddr.toNat + s.srcLen.toNat - 4) 4 = magicBytes ∧ f.csize = s.srcLen - 20 ∧
      f.crc = crc32 (memRead s.mem s.srcAddr.toNat (s.srcLen.toNat - 20)) ∧ t.fCrc = f.crc ∧
      (t.err = .ok → classify f.typ f.osize f.csize = .ok t.cls) := by
  rcases parseFooter_cases s.mem s.srcAddr.toNat s.srcLen.toNat with h' | h' | h' | h'
  · rw [execGate_error h'.1] at h; cases h; simp at he
  · rw [execGate_error h'.1] at h; cases h; simp at he
  · rw [execGate_error h'.1] at h; cases h; simp at he
  · obtain ⟨hp, hr, h20, hm⟩ := h'
    rw [execGate_parsed hp] at h
    refine ⟨hr, h20, hm, ?_⟩
    generalize footerAt s.mem (s.srcAddr.toNat + s.srcLen.toNat - 20) = f at *
    generalize hq : (s.setCls .noClass).setFooter f (s.srcLen - 20) = p at h
    have hpl : p.payLen.toNat = s.srcLen.toNat - 20 := by
      rw [← hq, State.setFooter_payLen, toNat_sub_footerLen _ h20]
    have hcc : srcCrc p p.payLen.toNat = crc32 (memRead s.mem s.srcAddr.toNat (s.srcLen.toNat - 20)) := by
      rw [hpl, ← hq]; rfl
    by_cases h1 : p.payLen = p.fCsize
    · by_cases h2 : srcCrc p p.payLen.toNat = p.fCrc
      · rw [gateChecks_dispatch h1 h2] at h
        have hf : p.fType = f.typ ∧ p.fOsize = f.osize ∧ p.fCsize = f.csize ∧ p.fCrc = f.crc := by
          rw [← hq]; exact ⟨rfl, rfl, rfl, rfl⟩
        refine ⟨by rw [← hf.2.2.1, ← h1, ← hq]; rfl, by rw [← hcc, h2, hf.2.2.2], ?_, ?_⟩
        · rw [← hf.2.2.2]
          rcases dispatchType_cases (p.setCrcOut (srcCrc p p.payLen.toNat)) with h9 | h9 | h9 | h9 <;>
            cases h.symm.trans h9.1 <;> rfl
        · intro hok
          unfold dispatchType at h
          simp only [State.setCrcOut_fType, State.setCrcOut_fOsize, State.setCrcOut_fCsize, hf.1, hf.2.1,
            hf.2.2.1] at h
          rcases classify_cases f.typ f.osize f.csize with hc | hc | hc | hc <;>
            (rw [hc.1] at h ⊢; cases h) <;> first | rfl | cases hok
      · rw [gateChecks_checksum h1 h2] at h; cases h; simp at he
    · rw [gateChecks_size h1] at h; cases h; simp at he

/-- Whether a container passes depends on its own bytes alone. -/
theorem Proven.holds_congr {p : Proven} {m m' : Memory} (h : sameBytes m m' p.addr.toNat p.len.toNat)
    (hp : p.holds m) : p.holds m' := by
  obtain ⟨h1, h2, h3, h4, h5, h6⟩ := hp
  have hf : footerAt m (p.addr.toNat + p.len.toNat - 20) = footerAt m' (p.addr.toNat + p.len.toNat - 20) :=
    footerAt_congr fun i hi => h _ (by omega) (by omega)
  refine ⟨h1, h2, ?_, ?_, ?_, ?_⟩
  · rw [← memRead_congr (fun x h1 h2 => h x (by omega) (by omega)), h3]
  · rw [← hf, h4]
  · rw [← hf, ← h5, memRead_congr (fun x h1 h2 => h x (by omega) (by omega))]
  · rw [← hf, h6]

/-- Writes inside a region leave every container that shares no byte with it as it was. -/
theorem holds_of_not_overlaps {ps : List Proven} {r : Region} {m m' : Memory} (h : ∀ p ∈ ps, p.holds m)
    (hm : ∀ x, x < r.start ∨ r.start + r.len ≤ x → Memory.read m' x = Memory.read m x) :
    ∀ p ∈ ps.filter (fun p => !p.region.overlaps r), p.holds m' := by
  intro p hp
  obtain ⟨hp, ho⟩ := List.mem_filter.1 hp
  have hh := h p hp
  have hl : 0 < p.region.len := by have := hh.2.1; show 0 < p.len.toNat; omega
  refine Proven.holds_congr (fun x h1 h2 => (hm x ?_).symm) hh
  simp only [Region.overlaps, Bool.not_eq_true', decide_eq_false_iff_not] at ho
  have h3 : p.region.start ≤ x := h1
  have h4 : x < p.region.start + p.region.len := h2
  omega

end Sys2Proof.Machine
end

