-- ==== Sys2Proof/Tests/Slice0.lean ====
section
/-! SUPPORT. Tests and witnesses. A test's expected values come from the spec: its number (PA4, BU7, ...) is the vector's in
spec/95_test_vectors.md, or the rule is named. A `witness_` theorem shows concrete data that meet the hypotheses of a
statement, one for each of its clauses, at the ends of the ranges; where it is cheap it shows the clause's conclusion too. -/

namespace Sys2Proof.Machine.Tests

-- One thread: the tests' kernel evaluations side by side would need a stack each.
set_option Elab.async false

/-! ### Helpers -/

/-- The outcome is a next state with this property. -/
def gives (o : Host.Outcome State Fault Refusal) (p : State → Bool) : Bool :=
  match o with
  | .next t => p t
  | .fault _ => false
  | .refused _ => false

/-- The outcome is exactly this state. -/
def isNext (o : Host.Outcome State Fault Refusal) (t : State) : Bool := gives o (fun u => decide (u = t))

theorem eq_next {o : Host.Outcome State Fault Refusal} {t : State} (h : isNext o t = true) : o = .next t := by
  cases o with
  | next u => exact congrArg _ (of_decide_eq_true h)
  | fault r => cases h
  | refused r => cases h

/-- Right after reset, with SRC at `a` holding these bytes. -/
def srcHolds (a : Word) (bs : List Byte) : State :=
  ((State.reset.setMem (memWrite [] a.toNat bs)).setSrcLen (BitVec.ofNat 32 bs.length)) |> fun s => { s with srcAddr := a }

/-- Right after reset, with SRC this region and nothing in memory. -/
def srcIs (a len : Word) : State := { State.reset with srcAddr := a, srcLen := len }

/-- Right after reset, with these footer fields and DST at `d`. -/
def fields (o c k t d : Word) : State :=
  { State.reset with fOsize := o, fCsize := c, fCrc := k, fType := t, dstAddr := d }

/-- This command is in flight and then these events come. -/
def inFlight (s : State) (i : Instr) (es : List Event) : State := (s.issue (encode i)).setAgenda es

/-- ASCII "ABC", and its CRC32 (CR4). -/
def abc : List Byte := [0x41#8, 0x42#8, 0x43#8]
def abcCrc : Word := 0xA3830348#32

/-- "ABC" and a footer: the containers of the GATE table. -/
def abcWith (o c k t : Word) : State := srcHolds 0x1000 (abc ++ footerBytes o c k t)

/-! ### WellFormed: the one shape that is no command word (R111) -/

theorem test_wf_refuses_illegalZ_zero : Instr.wf (.illegalZ 0 1) = false := by decide
theorem test_wf_refuses_illegalZ_zero_op_zero : Instr.wf (.illegalZ 0 0) = false := by decide
theorem test_wf_accepts_illegalZ : Instr.wf (.illegalZ 1 1) = true := by decide

/-! ### Decode: the words of R113 written out bit by bit -/

theorem test_decode_nop : decodeWord 0b00000000000000000000000000000000 = .nop := by decide
theorem test_decode_parse : decodeWord 0b00000000000000000000000000000001 = .parse := by decide
theorem test_decode_build : decodeWord 0b00000000000000000000000000000010 = .build := by decide
theorem test_decode_crc : decodeWord 0b00000000000000000000000000000011 = .crc := by decide
theorem test_decode_vsize : decodeWord 0b00000000000000000000000000000100 = .vsize := by decide
theorem test_decode_vcrc : decodeWord 0b00000000000000000000000000000101 = .vcrc := by decide
theorem test_decode_typechk : decodeWord 0b00000000000000000000000000000110 = .typechk := by decide
theorem test_decode_vdec : decodeWord 0b00000000000000000000000000000111 = .vdec := by decide
theorem test_decode_gate : decodeWord 0b00000000000000000000000000001000 = .gate := by decide
theorem test_decode_seal : decodeWord 0b00000000000000000000000000001001 = .sealFooter := by decide
theorem test_decode_illegalAB : decodeWord 0b00000000000000000000000000001011 = .illegalAB 1 := by decide
theorem test_decode_illegalCF : decodeWord 0b00000000000000000000000000001110 = .illegalCF 2 := by decide
theorem test_decode_illegalZ : decodeWord 0b10000000000000000000000000000001 = .illegalZ 0x8000000 1 := by decide
theorem test_decodeTableWord : decodeTableWord 32 0x8 = some .gate := by decide
theorem test_decode_rejects_two_words : decodeBits 64 0x8 = .error .longerThanOneWord := by rfl

/-! ### The commands: vectors of 95_test_vectors.md -/

theorem test_parse_PA4 : isNext (exec .parse (srcHolds 0x1000
      [0x78#8, 0x56#8, 0x34#8, 0x12#8, 0xF0#8, 0xDE#8, 0xBC#8, 0x9A#8, 0x3C#8, 0x2D#8, 0x1E#8, 0x0F#8,
        0x78#8, 0x69#8, 0x5A#8, 0x4B#8, 0x44#8, 0x56#8, 0x50#8, 0x4C#8]))
    (State.complete { srcHolds 0x1000 (footerBytes 0x12345678 0x9ABCDEF0 0x0F1E2D3C 0x4B5A6978) with
      fOsize := 0x12345678, fCsize := 0x9ABCDEF0, fCrc := 0x0F1E2D3C, fType := 0x4B5A6978, payLen := 0 } .ok) = true := by
  decide +kernel

theorem test_parse_PA11 : isNext (exec .parse (srcHolds 0x1000 (List.replicate 10 0#8)))
    ((srcHolds 0x1000 (List.replicate 10 0#8)).complete .format) = true := by decide +kernel

theorem test_build_BU4 : gives (exec .build (fields 0x12345678 0x9ABCDEF0 0x0F1E2D3C 0x4B5A6978 0x2000))
    (fun t => decide (t.err = .ok ∧ memRead t.mem 0x2000 20 =
      [0x78#8, 0x56#8, 0x34#8, 0x12#8, 0xF0#8, 0xDE#8, 0xBC#8, 0x9A#8, 0x3C#8, 0x2D#8, 0x1E#8, 0x0F#8,
        0x78#8, 0x69#8, 0x5A#8, 0x4B#8, 0x44#8, 0x56#8, 0x50#8, 0x4C#8])) = true := by decide +kernel

theorem test_crc_CR2 : gives (exec .crc (srcHolds 0x3000
      [0x31#8, 0x32#8, 0x33#8, 0x34#8, 0x35#8, 0x36#8, 0x37#8, 0x38#8, 0x39#8]))
    (fun t => decide (t.err = .ok ∧ t.crcOut = 0xCBF43926)) = true := by decide +kernel

theorem test_crc_CR8 : gives (exec .crc (srcHolds 0x3000 [0xFF#8, 0xFF#8, 0xFF#8, 0xFF#8]))
    (fun t => decide (t.crcOut = 0xFFFFFFFF)) = true := by decide +kernel

theorem test_vcrc_VC5 : gives (exec .vcrc { srcHolds 0x1000 [0x41#8, 0x43#8, 0x43#8] with fCrc := abcCrc })
    (fun t => decide (t.err = .checksum ∧ t.crcOut = 0xBA983209)) = true := by decide +kernel

theorem test_gate_GA3 : gives (exec .gate (abcWith 3 4 abcCrc 0))
    (fun t => decide (t.err = .size ∧ t.fCsize = 4 ∧ t.payLen = 3 ∧ t.crcOut = 0 ∧ t.cls = .noClass)) = true := by
  decide +kernel

theorem test_gate_GA11 : gives (exec .gate (srcHolds 0x1000 ([0x41#8, 0x43#8, 0x43#8] ++ footerBytes 5 3 abcCrc 0)))
    (fun t => decide (t.err = .checksum ∧ t.crcOut = 0xBA983209 ∧ t.fOsize = 5 ∧ t.cls = .noClass)) = true := by
  decide +kernel

theorem test_seal_SE1 : gives (exec .sealFooter { srcHolds 0x4000 abc with dstAddr := 0x4003, fOsize := 3 })
    (fun t => decide (t.err = .ok ∧ t.fCsize = 3 ∧ t.fCrc = abcCrc ∧ t.crcOut = abcCrc ∧ memRead t.mem 0x4003 20 =
      [0x03#8, 0#8, 0#8, 0#8, 0x03#8, 0#8, 0#8, 0#8, 0x48#8, 0x03#8, 0x83#8, 0xA3#8, 0#8, 0#8, 0#8, 0#8,
        0x44#8, 0x56#8, 0x50#8, 0x4C#8])) = true := by decide +kernel

theorem test_seal_SE3_overlap : gives (exec .sealFooter { srcHolds 0x4000 abc with
      dstAddr := 0x4000, fOsize := 7, fType := 1 })
    (fun t => decide (t.crcOut = abcCrc ∧ memRead t.mem 0x4000 20 =
      [0x07#8, 0#8, 0#8, 0#8, 0x03#8, 0#8, 0#8, 0#8, 0x48#8, 0x03#8, 0x83#8, 0xA3#8, 0x01#8, 0#8, 0#8, 0#8,
        0x44#8, 0x56#8, 0x50#8, 0x4C#8])) = true := by decide +kernel

theorem test_illegal_CT5 : gives (step (State.reset.withFetchWord 32 0x11))
    (fun t => decide (statusWord t = 0x00000092)) = true := by decide +kernel

/-! ### Registers and the step: RG vectors -/

theorem test_RG4_ctrl : gives (step (State.reset.setAgenda [wr .ctrl 0xFFFFFFFF]))
    (fun t => decide (readReg .ctrl t = 1)) = true := by decide +kernel

theorem test_RG7_status_w1c : gives (step ({ State.reset with err := .checksum, done := true }.setAgenda [wr .status 2]))
    (fun t => decide (readReg .status t = 0x00000030)) = true := by decide +kernel

theorem test_RG8_write_rejected : gives (step (inFlight (srcIs 0 9) .crc [wr .srcLen 4]))
    (fun t => decide (t.srcLen = 9 ∧ t.rej = true ∧ t.phase = .busy)) = true := by decide +kernel

theorem test_RG16_err_kept_across_issue :
    gives (step ({ State.reset with err := .checksum, done := true }.setAgenda [cmd .nop]))
      (fun t => decide (readReg .status t = 0x00000031)) = true := by decide +kernel

/-- P5, the two orders of a completion and a write of SRC_LEN (R31, I21): here the completion comes first. -/
theorem test_P5_completion_first :
    gives (step (inFlight (srcIs 0x3000 0) .crc [.unit, wr .srcLen 4]))
      (fun t => decide (t.phase = .idle ∧ t.agenda = [wr .srcLen 4])) = true := by decide +kernel

/-! ### Witnesses: encodings -/

theorem witness_DecodeOfEncodeIsIdentity : Instr.wf (.illegalZ 0xFFFFFFF 0xF) = true := by decide

theorem witness_ReservedWordsCompleteWithIllegal_opcode : 10 ≤ (0x0000000A : Word).toNat := by decide
theorem witness_ReservedWordsCompleteWithIllegal_bits : (0x00000010 : Word).extractLsb' 4 28 ≠ 0 := by decide

/-! ### Witnesses: the commands -/

theorem witness_NopResult_and_IllegalResult : State.reset.rej = false := rfl

theorem witness_ParseResult_range : let s := srcIs 0xFFFFFFFF 2
    2 ^ 32 < s.srcAddr.toNat + s.srcLen.toNat ∧ isNext (exec .parse s) (s.complete .range) = true := by decide +kernel

theorem witness_ParseResult_tooShortForMagic : let s := srcIs 0xFFFFFFFD 3
    s.srcAddr.toNat + s.srcLen.toNat ≤ 2 ^ 32 ∧ s.srcLen.toNat < 4 ∧
      isNext (exec .parse s) (s.complete .format) = true := by decide +kernel

theorem witness_ParseResult_noMagic : let s := srcHolds 0xFFFFFFFC [0x44#8, 0x56#8, 0x50#8, 0x6C#8]
    s.srcAddr.toNat + s.srcLen.toNat ≤ 2 ^ 32 ∧ 4 ≤ s.srcLen.toNat ∧
      memRead s.mem (s.srcAddr.toNat + s.srcLen.toNat - 4) 4 ≠ magicBytes ∧
      isNext (exec .parse s) (s.complete .format) = true := by decide +kernel

/-- PA10, at the top of memory. -/
theorem witness_ParseResult_short : let s := srcHolds 0xFFFFFFED (List.replicate 15 0#8 ++ magicBytes)
    s.srcAddr.toNat + s.srcLen.toNat ≤ 2 ^ 32 ∧ 4 ≤ s.srcLen.toNat ∧ s.srcLen.toNat < 20 ∧
      memRead s.mem (s.srcAddr.toNat + s.srcLen.toNat - 4) 4 = magicBytes ∧
      isNext (exec .parse s) (s.complete .short) = true := by decide +kernel

/-- PA12. -/
theorem witness_ParseResult_ok : let s := srcHolds 0xFFFFFFEC (footerBytes 1 2 3 4)
    s.srcAddr.toNat + s.srcLen.toNat ≤ 2 ^ 32 ∧ 20 ≤ s.srcLen.toNat ∧
      memRead s.mem (s.srcAddr.toNat + s.srcLen.toNat - 4) 4 = magicBytes ∧
      isNext (exec .parse s) (State.complete { s with fOsize := 1, fCsize := 2, fCrc := 3, fType := 4 } .ok) = true := by
  decide +kernel

/-- `magicAt` of the statements is the comparison the witnesses decide. -/
theorem witness_magicAt :
    magicAt (memWrite [] 16 magicBytes) 16 ∧ ¬ magicAt (memWrite [] 16 [0#8, 0#8, 0#8, 0#8]) 16 := by
  rw [magicAt_iff, magicAt_iff]; decide

/-- BU7. -/
theorem witness_BuildResult_range : let s := fields 1 2 3 4 0xFFFFFFED
    2 ^ 32 < s.dstAddr.toNat + 20 ∧ isNext (exec .build s) (s.complete .range) = true := by decide +kernel

/-- BU6. -/
theorem witness_BuildResult_ok : let s := fields 1 2 3 4 0xFFFFFFEC
    s.dstAddr.toNat + 20 ≤ 2 ^ 32 ∧ gives (exec .build s) (fun t => decide (t.err = .ok ∧
      memRead t.mem 0xFFFFFFEC 20 = [1#8, 0#8, 0#8, 0#8, 2#8, 0#8, 0#8, 0#8, 3#8, 0#8, 0#8, 0#8, 4#8, 0#8, 0#8, 0#8,
        0x44#8, 0x56#8, 0x50#8, 0x4C#8])) = true := by decide +kernel

/-- CR12. -/
theorem witness_CrcResult_range : let s := srcIs 0xFFFFFFFF 2
    2 ^ 32 < s.srcAddr.toNat + s.srcLen.toNat ∧ isNext (exec .crc s) (s.complete .range) = true := by decide +kernel

/-- CR11. -/
theorem witness_CrcResult_ok : let s := srcHolds 0xFFFFFFFF [0x61#8]
    s.srcAddr.toNat + s.srcLen.toNat ≤ 2 ^ 32 ∧
      isNext (exec .crc s) (State.complete { s with crcOut := 0xE8B7BE43 } .ok) = true := by decide +kernel

/-- VS4. -/
theorem witness_VsizeResult_ok : let s := { srcIs 0 0xFFFFFFFF with fCsize := 0xFFFFFFFF }
    s.srcLen = s.fCsize ∧ isNext (exec .vsize s) (s.complete .ok) = true := by decide +kernel

/-- VS5. -/
theorem witness_VsizeResult_size : let s := { srcIs 0 0 with fCsize := 0xFFFFFFFF }
    s.srcLen ≠ s.fCsize ∧ isNext (exec .vsize s) (s.complete .size) = true := by decide +kernel

/-- VC6. -/
theorem witness_VcrcResult_range : let s := { srcIs 0xFFFFFFFE 3 with crcOut := 0x11111111 }
    2 ^ 32 < s.srcAddr.toNat + s.srcLen.toNat ∧ isNext (exec .vcrc s) (s.complete .range) = true := by decide +kernel

/-- VC1. -/
theorem witness_VcrcResult_ok : let s := { srcHolds 0x1000 abc with fCrc := abcCrc }
    s.srcAddr.toNat + s.srcLen.toNat ≤ 2 ^ 32 ∧ crc32 (memRead s.mem s.srcAddr.toNat s.srcLen.toNat) = s.fCrc ∧
      isNext (exec .vcrc s) (State.complete { s with crcOut := abcCrc } .ok) = true := by decide +kernel

/-- VC2. -/
theorem witness_VcrcResult_checksum : let s := { srcHolds 0x1000 abc with fCrc := 0xA3830349 }
    s.srcAddr.toNat + s.srcLen.toNat ≤ 2 ^ 32 ∧ crc32 (memRead s.mem s.srcAddr.toNat s.srcLen.toNat) ≠ s.fCrc ∧
      isNext (exec .vcrc s) (State.complete { s with crcOut := abcCrc } .checksum) = true := by decide +kernel

/-- TC3, TC2, TC9, TC6; CLASS starts at LZ4. -/
theorem witness_TypechkResult : let s := fun o c t => { fields o c 0 t 0 with cls := .lz4 }
    isNext (exec .typechk (s 0 0 0)) (State.complete { s 0 0 0 with cls := .stored } .ok) = true ∧
      isNext (exec .typechk (s 5 3 0)) (State.complete { s 5 3 0 with cls := .noClass } .storedSize) = true ∧
      isNext (exec .typechk (s 0xFFFFFFFF 0 2)) (State.complete { s 0xFFFFFFFF 0 2 with cls := .lz4 } .ok) = true ∧
      isNext (exec .typechk (s 3 3 3)) (State.complete { s 3 3 3 with cls := .noClass } .unknownType) = true ∧
      2 < (3 : Word).toNat := by decide +kernel

/-- The highest count that is no failure signal. -/
theorem witness_VdecResult_ok : let s := { fields 0xFFFFFFFE 0 0 0 0 with lz4Res := 0xFFFFFFFE }
    s.lz4Res.toNat < 2 ^ 32 - 1 ∧ s.lz4Res = s.fOsize ∧ isNext (exec .vdec s) (s.complete .ok) = true := by
  decide +kernel

/-- VD5. -/
theorem witness_VdecResult_failureSignal : let s := { fields 0xFFFFFFFF 0 0 0 0 with lz4Res := 0xFFFFFFFF }
    s.lz4Res.toNat = 2 ^ 32 - 1 ∧ isNext (exec .vdec s) (s.complete .decodedSize) = true := by decide +kernel

/-- VD2. -/
theorem witness_VdecResult_count : let s := { fields 0x64 0 0 0 0 with lz4Res := 0x63 }
    s.lz4Res ≠ s.fOsize ∧ isNext (exec .vdec s) (s.complete .decodedSize) = true := by decide +kernel

theorem witness_GateResult_range : let s := { srcIs 0xFFFFFFF0 17 with cls := .lz4 }
    2 ^ 32 < s.srcAddr.toNat + s.srcLen.toNat ∧
      isNext (exec .gate s) (State.complete { s with cls := .noClass } .range) = true := by decide +kernel

theorem witness_GateResult_tooShortForMagic : let s := { srcIs 0xFFFFFFFD 3 with cls := .lz4 }
    s.srcAddr.toNat + s.srcLen.toNat ≤ 2 ^ 32 ∧ s.srcLen.toNat < 4 ∧
      isNext (exec .gate s) (State.complete { s with cls := .noClass } .format) = true := by decide +kernel

theorem witness_GateResult_noMagic : let s := { srcHolds 0x1000 [0x44#8, 0x56#8, 0x50#8, 0x6C#8] with cls := .lz4 }
    s.srcAddr.toNat + s.srcLen.toNat ≤ 2 ^ 32 ∧ 4 ≤ s.srcLen.toNat ∧
      memRead s.mem (s.srcAddr.toNat + s.srcLen.toNat - 4) 4 ≠ magicBytes ∧
      isNext (exec .gate s) (State.complete { s with cls := .noClass } .format) = true := by decide +kernel

theorem witness_GateResult_short : let s := { srcHolds 0x1000 (List.replicate 15 0#8 ++ magicBytes) with cls := .lz4 }
    s.srcAddr.toNat + s.srcLen.toNat ≤ 2 ^ 32 ∧ 4 ≤ s.srcLen.toNat ∧ s.srcLen.toNat < 20 ∧
      memRead s.mem (s.srcAddr.toNat + s.srcLen.toNat - 4) 4 = magicBytes ∧
      isNext (exec .gate s) (State.complete { s with cls := .noClass } .short) = true := by decide +kernel

/-- The hypotheses past the parse: in range, 20 bytes or more, the magic. -/
def parses (s : State) : Bool :=
  decide (s.srcAddr.toNat + s.srcLen.toNat ≤ 2 ^ 32 ∧ 20 ≤ s.srcLen.toNat ∧
    memRead s.mem (s.srcAddr.toNat + s.srcLen.toNat - 4) 4 = magicBytes)

/-- GA3, GA12, GA5, GA7, GA9 (with a payload of one zero byte, CR5), GA13. -/
theorem witness_GateResult_past_the_parse :
    (let s := abcWith 3 4 abcCrc 0;
      parses s = true ∧ isNext (exec .gate s)
        (State.complete { s with fOsize := 3, fCsize := 4, fCrc := abcCrc, payLen := 3 } .size) = true) ∧
    (let s := srcHolds 0x1000 (footerBytes 0 0 1 0);
      parses s = true ∧ isNext (exec .gate s) (State.complete { s with fCrc := 1 } .checksum) = true) ∧
    (let s := abcWith 5 3 abcCrc 0;
      parses s = true ∧ isNext (exec .gate s) (State.complete { s with
        fOsize := 5, fCsize := 3, fCrc := abcCrc, payLen := 3, crcOut := abcCrc } .storedSize) = true) ∧
    (let s := srcHolds 0x1000 (footerBytes 0 0 0 0);
      parses s = true ∧ isNext (exec .gate s) (State.complete { s with cls := .stored } .ok) = true) ∧
    (let s := srcHolds 0x1000 (0#8 :: footerBytes 100 1 0xD202EF8D 1);
      parses s = true ∧ isNext (exec .gate s) (State.complete { s with
        fOsize := 100, fCsize := 1, fCrc := 0xD202EF8D, fType := 1, payLen := 1, crcOut := 0xD202EF8D,
        cls := .lz4 } .ok) = true) ∧
    (let s := abcWith 3 3 abcCrc 3;
      parses s = true ∧ isNext (exec .gate s) (State.complete { s with
        fOsize := 3, fCsize := 3, fCrc := abcCrc, fType := 3, payLen := 3, crcOut := abcCrc } .unknownType) = true) := by
  decide +kernel

theorem witness_SealResult_range : let s := { srcIs 0xFFFFFFFF 2 with dstAddr := 0 }
    2 ^ 32 < s.srcAddr.toNat + s.srcLen.toNat ∧ isNext (exec .sealFooter s) (s.complete .range) = true := by
  decide +kernel

/-- SE4, at the first DST that is out of range. -/
theorem witness_SealResult_range_dst : let s := { srcHolds 0x4000 abc with dstAddr := 0xFFFFFFED, fCrc := 0x22222222 }
    2 ^ 32 < s.dstAddr.toNat + 20 ∧ isNext (exec .sealFooter s) (s.complete .range) = true := by decide +kernel

/-- SRC up to the top of memory, DST its last 20 bytes. -/
theorem witness_SealResult_ok : let s := { srcHolds 0xFFFFFFFD abc with dstAddr := 0xFFFFFFEC, fOsize := 7, fType := 1 }
    s.srcAddr.toNat + s.srcLen.toNat ≤ 2 ^ 32 ∧ s.dstAddr.toNat + 20 ≤ 2 ^ 32 ∧
      gives (exec .sealFooter s) (fun t => decide (t.err = .ok ∧ t.crcOut = abcCrc ∧ t.fCsize = 3)) = true := by
  decide +kernel

/-! ### Witnesses: all commands -/

theorem witness_EveryListedCodeIsRaised : ErrCode.decodedSize ∈ outcomes .vdec := by decide

/-- A GATE that fails at its size check leaves CRC_OUT and memory. -/
theorem witness_CommandsWriteOnlyTheirRegisters : gives (exec .gate (abcWith 3 4 abcCrc 0))
    (fun t => decide (t.err = .size ∧ Reg.crcOut ∉ writtenRegs .gate t.err ∧ writesDst .gate = false)) = true := by
  decide +kernel

/-- A BUILD, and the byte right after DST. -/
theorem witness_CommandsStoreOnlyIntoDst : let s := fields 1 2 3 4 0x2000
    gives (exec .build s) (fun t => decide (t.err = .ok)) = true ∧ s.dst.contains 0x2013 = true ∧
      s.dst.contains 0x2014 = false := by decide +kernel

/-- Two states with the same inputs for CRC that differ elsewhere, in memory outside SRC too. -/
theorem witness_ResultsDependOnlyOnInputs : let s := srcHolds 0x1000 [0x61#8]
    let s' := { srcHolds 0x1000 [0x61#8, 0x62#8] with srcLen := 1, fCrc := 5 }
    sameInputs .crc s s' ∧ gives (exec .crc s) (fun t => decide (t.crcOut = 0xE8B7BE43)) = true ∧
      gives (exec .crc s') (fun t => decide (t.crcOut = 0xE8B7BE43)) = true := by
  refine ⟨⟨by decide, fun _ a ha => ?_⟩, by decide +kernel, by decide +kernel⟩
  have : a = 0x1000 := by
    rw [Region.contains_iff] at ha
    have h1 : 0x1000 ≤ a := ha.1
    have h2 : a < 0x1000 + 1 := ha.2
    omega
  subst this; rfl

/-- P1: the footer of V1 built at the top of memory and parsed back with nothing before it. -/
theorem witness_BuildThenParseRestoresFields : let s := fields 10 5 0xDEADBEEF 1 0xFFFFFFEC
    ∃ t, exec .build s = .next t ∧ s.dstAddr.toNat + 20 ≤ 2 ^ 32 ∧
      (let u := { t with srcAddr := 0xFFFFFFEC, srcLen := 20 };
        sameBytes u.mem t.mem s.dstAddr.toNat 20 ∧ u.srcAddr.toNat = s.dstAddr.toNat - 0 ∧ u.srcLen.toNat = 0 + 20) := by
  refine ⟨_, rfl, by decide, fun _ _ _ => rfl, rfl, rfl⟩

/-- PA12 read, and DST at the top of memory. -/
theorem witness_ParseThenBuildRewritesFooter : let s := srcHolds 0x1000 (footerBytes 1 2 3 4)
    let t := State.complete { s with fOsize := 1, fCsize := 2, fCrc := 3, fType := 4 } .ok
    exec .parse s = .next t ∧ t.err = .ok ∧
      (let u := { t with dstAddr := 0xFFFFFFEC };
        u.fOsize = t.fOsize ∧ u.fCsize = t.fCsize ∧ u.fCrc = t.fCrc ∧ u.fType = t.fType ∧
          u.dstAddr.toNat + 20 ≤ 2 ^ 32) :=
  ⟨eq_next (by decide +kernel), rfl, rfl, rfl, rfl, rfl, by decide⟩

/-- P2 with any types: "ABC" sealed right behind itself, then the container given to GATE. -/
theorem witness_SealedContainerPassesGate : let s := { srcHolds 0x4000 abc with dstAddr := 0x4003, fOsize := 3 }
    ∃ t, exec .sealFooter s = .next t ∧ s.dstAddr.toNat = s.srcAddr.toNat + s.srcLen.toNat ∧
      s.dstAddr.toNat + 20 ≤ 2 ^ 32 ∧ s.fType = 0 ∧ s.fOsize = s.srcLen ∧
      (let u := { t with srcLen := 23 };
        sameBytes u.mem t.mem s.srcAddr.toNat (s.srcLen.toNat + 20) ∧ u.srcAddr = s.srcAddr ∧
          u.srcLen.toNat = s.srcLen.toNat + 20) := by
  refine ⟨_, execSeal_ok (by decide) (by decide), by decide, by decide, rfl, rfl, fun _ _ _ => rfl, rfl, by decide⟩

/-! ### Witnesses: the CRC -/

/-- V5: "ABC" to "ACC". -/
theorem witness_OneFlippedBitChangesTheCrc :
    (0 : Nat) < 8 ∧ (7 : Nat) < 8 ∧ (0x42#8 ^^^ (1#8 <<< 0)) = 0x43#8 := by decide

/-- GA1 and GA4. -/
theorem witness_FlippedPayloadBitFailsTheGate : let s := abcWith 3 3 abcCrc 0
    let u := { s with mem := Memory.write s.mem 0x1001 (Memory.read s.mem 0x1001 ^^^ (1#8 <<< 0)) }
    gives (exec .gate s) (fun t => decide (t.err = .ok)) = true ∧ u.srcAddr = s.srcAddr ∧ u.srcLen = s.srcLen ∧
      s.srcAddr.toNat ≤ 0x1001 ∧ 0x1001 < s.srcAddr.toNat + (s.srcLen.toNat - 20) ∧
      Memory.read u.mem 0x1001 = Memory.read s.mem 0x1001 ^^^ (1#8 <<< 0) ∧
      (∀ a, s.srcAddr.toNat ≤ a → a < s.srcAddr.toNat + s.srcLen.toNat → a ≠ 0x1001 →
        Memory.read u.mem a = Memory.read s.mem a) ∧
      gives (exec .gate u) (fun v => decide (v.err = .checksum ∧ v.crcOut = 0xBA983209)) = true :=
  ⟨by decide +kernel, rfl, rfl, by decide, by decide, Memory.read_write_same _ _ _,
    fun _ _ _ h => Memory.read_write_ne h, by decide +kernel⟩

/-! ### Witnesses: the register bus -/

theorem witness_BusyWritesAreRejected : (inFlight State.reset .nop []).phase = .busy ∧ Reg.srcAddr ∈ argumentRegs ∧
    Reg.lz4Res ∈ argumentRegs := by decide

/-- RG9: the step is a rejected write of CMD, and the command stays in flight. -/
theorem witness_BusyReadsGiveValuesFromIssue : let s := inFlight State.reset .nop [wr .cmd 1]
    s.phase = .busy ∧ s.done = false ∧
      gives (step s) (fun t => decide (t.phase = .busy ∧ t.cmdword = 0 ∧ t.rej = true)) = true := by decide +kernel

theorem witness_ReadOnlyWritesAreIgnored : Reg.magic ∈ readOnlyRegs ∧ Reg.reserved ∈ readOnlyRegs := by decide

theorem witness_IdleArgumentWritesStore_and_CmdWriteIssues :
    State.reset.phase = .idle ∧ Reg.srcAddr ∈ argumentRegs ∧ Reg.lz4Res ∈ argumentRegs := by decide

theorem witness_UndefinedAccessIsRefused :
    ((2 : Nat) ≠ 4 ∨ 0 % 4 ≠ 0) ∧ ((4 : Nat) ≠ 4 ∨ 2 % 4 ≠ 0) := by decide

/-- The last register, and the first offset beyond it, read and written. -/
theorem witness_WindowHoldsSixteenRegisters :
    (60 : Nat) < 64 ∧ 60 % 4 = 0 ∧ (64 : Nat) ≤ 64 ∧ 64 % 4 = 0 ∧
      step (State.reset.setAgenda [.regRead 64 4]) = .refused .outsideWindow ∧
      step (State.reset.setAgenda [.regWrite 64 4 0]) = .refused .outsideWindow :=
  ⟨by decide, rfl, by decide, rfl, rfl, rfl⟩

/-! ### Witnesses: the machine as a whole -/

theorem witness_StepCompletesTheCommandInFlight : let s := State.reset.issue (encode .gate)
    s.phase = .busy ∧ s.misplaced (decodeWord s.cmdword) = false ∧ State.reset.misplaced (decodeWord 0x8) = false ∧
      gives (exec (decodeWord s.cmdword) (s.setAgenda [])) (fun t => decide (t.err = .format)) = true ∧
      gives (step (State.reset.withFetchWord 32 (0x8 : Word).toNat)) (fun t => decide (t.err = .format)) = true := by
  decide +kernel

/-- The note of a completion: a GATE that passes, a BUILD over its container, a command that does neither. -/
theorem witness_StepCompletesTheCommandInFlight_note :
    (noteCompletion .gate State.reset).proven = [⟨0, 0, .noClass⟩] ∧
      (noteCompletion .build { State.reset with proven := [⟨0, 20, .stored⟩] }).proven = [] ∧
      (noteCompletion .nop { State.reset with proven := [⟨0, 20, .stored⟩] }).proven = [⟨0, 20, .stored⟩] := by
  decide

theorem witness_ErrChangesOnlyByCompletionOrReset :
    gives (step (inFlight State.reset (.illegalAB 0) [.unit])) (fun t => decide (t.err = .illegal)) = true ∧
      gives (step ({ State.reset with err := .illegal }.setAgenda [.reset])) (fun t => decide (t.err = .ok)) = true := by
  decide +kernel

theorem witness_RejChangesExactlyAsListed :
    gives (step (inFlight State.reset .nop [wr .lz4Res 1])) (fun t => t.rej) = true ∧
      gives (step ({ State.reset with rej := true }.setAgenda [wr .status 4])) (fun t => !t.rej) = true ∧
      gives (step ({ State.reset with rej := true }.setAgenda [.reset])) (fun t => !t.rej) = true := by decide +kernel

theorem witness_BusyChangesExactlyAsListed :
    gives (step (State.reset.setAgenda [wr .cmd 0])) (fun t => decide (t.phase = .busy)) = true ∧
      gives (step (inFlight State.reset .nop [])) (fun t => decide (t.phase = .idle)) = true ∧
      gives (step (inFlight State.reset .nop [.unit])) (fun t => decide (t.phase = .idle)) = true ∧
      gives (step (inFlight State.reset .nop [.reset])) (fun t => decide (t.phase = .idle)) = true := by decide +kernel

theorem witness_DoneChangesExactlyAsListed :
    gives (step (inFlight State.reset .nop [])) (fun t => t.done) = true ∧
      gives (step ({ State.reset with done := true }.setAgenda [wr .cmd 0])) (fun t => !t.done) = true ∧
      gives (step ({ State.reset with done := true }.setAgenda [wr .status 2])) (fun t => !t.done) = true ∧
      gives (step ({ State.reset with done := true }.setAgenda [.reset])) (fun t => !t.done) = true := by decide +kernel

theorem witness_ResultRegistersChangeOnlyByCompletion :
    gives (step (inFlight (srcHolds 0x1000 [0x61#8]) .crc [])) (fun t => decide (t.crcOut ≠ 0)) = true ∧
      gives (step ({ State.reset with payLen := 1, cls := .lz4 }.setAgenda [.reset]))
        (fun t => decide (t.payLen = 0 ∧ t.cls = .noClass)) = true := by decide +kernel

/-- RG12, RG13, RG14 and reset, each from irq = 1. -/
theorem witness_IrqIsALevel : let s := { State.reset with ie := true, done := true }
    irq s = true ∧ gives (exec .nop s) irq = true ∧
      gives (step (s.setAgenda [wr .cmd 0])) (fun t => !irq t) = true ∧
      gives (step (s.setAgenda [wr .status 2])) (fun t => !irq t) = true ∧
      gives (step (s.setAgenda [wr .ctrl 0])) (fun t => !irq t && t.done) = true ∧
      gives (step (s.setAgenda [.reset])) (fun t => !irq t) = true := by decide +kernel

/-! ### Witnesses: buffer memory and the host -/

/-- The last byte of SRC. -/
theorem witness_SrcWriteWhileBusyFaults : let s := inFlight (srcIs 0x1000 4) .crc []
    s.phase = .busy ∧ readsSrc (decodeWord s.cmdword) = true ∧ s.srcAddr.toNat ≤ (0x1003 : Word).toNat ∧
      (0x1003 : Word).toNat < s.srcAddr.toNat + s.srcLen.toNat := by decide

/-- BUILD's last byte of DST, and a byte of both regions of a SEAL. -/
theorem witness_DstAccessWhileBusy :
    (let s := inFlight (fields 1 2 3 4 0x2000) .build [];
      s.phase = .busy ∧ writesDst (decodeWord s.cmdword) = true ∧ readsSrc (decodeWord s.cmdword) = false ∧
        s.dstAddr.toNat ≤ (0x2013 : Word).toNat ∧ (0x2013 : Word).toNat < s.dstAddr.toNat + 20) ∧
    (let s := inFlight { srcIs 0x2000 4 with dstAddr := 0x2000 } .sealFooter [];
      s.phase = .busy ∧ writesDst (decodeWord s.cmdword) = true ∧ readsSrc (decodeWord s.cmdword) = true ∧
        s.srcAddr.toNat ≤ (0x2003 : Word).toNat ∧ (0x2003 : Word).toNat < s.srcAddr.toNat + s.srcLen.toNat ∧
        ¬ (0x2004 : Word).toNat < s.srcAddr.toNat + s.srcLen.toNat ∧
        (0x2004 : Word).toNat < s.dstAddr.toNat + 20) := by decide

/-- The byte right after SRC while CRC is in flight, and any byte while idle. -/
theorem witness_HostMemoryAccess :
    (let s := inFlight (srcIs 0x1000 4) .crc [];
      s.srcBusy 0x1003 = true ∧ s.srcBusy 0x1004 = false ∧ s.dstBusy 0x1004 = false ∧ s.nonOrdinary 0x1004 = false) ∧
    State.reset.srcBusy 0 = false ∧ State.reset.dstBusy 0 = false ∧ State.reset.nonOrdinary 0 = false := by decide

/-- A platform with a device window of four bytes at 0x2000. -/
def windowAt2000 (s : State) : State := { s with memKind := [⟨0x2000, 4⟩] }

/-- The last byte of SRC, and of DST, is the window's first: refused. The window's neighbours on both sides, a command that
touches no memory, and a SEAL whose SRC is out of range: not refused. -/
theorem witness_NonOrdinaryPlacementIsRefused :
    (let s := windowAt2000 (inFlight (srcIs 0x1FFD 4) .crc []);
      s.phase = .busy ∧ s.nonOrdinary 0x2000 = true ∧ s.misplaced .crc = true ∧
        step (s.setAgenda [.unit]) = .refused .nonOrdinaryMemory) ∧
    (windowAt2000 (fields 0 0 0 0 0x1FED)).misplaced .build = true ∧
    (windowAt2000 (srcIs 0x1FFC 4)).misplaced .crc = false ∧
    (windowAt2000 (srcIs 0x2004 4)).misplaced .gate = false ∧
    (windowAt2000 (srcIs 0x2000 4)).misplaced .vsize = false ∧
    (windowAt2000 { srcIs 0xFFFFFFFF 2 with dstAddr := 0x2000 }).misplaced .sealFooter = false :=
  ⟨⟨rfl, by decide, by decide, rfl⟩, by decide, by decide, by decide, by decide, by decide⟩

/-- The host at the window's last byte, and at the byte behind it. -/
theorem witness_NonOrdinaryPlacementIsRefused_host : let s := windowAt2000 State.reset
    s.nonOrdinary (0x2003 : Word).toNat = true ∧ s.dstBusy (0x2003 : Word).toNat = false ∧
      s.srcBusy (0x2003 : Word).toNat = false ∧ s.nonOrdinary (0x2004 : Word).toNat = false ∧
      step (s.setAgenda [.memRead 0x2003]) = .refused .nonOrdinaryMemory ∧
      step (s.setAgenda [.memWrite 0x2003 1]) = .refused .nonOrdinaryMemory :=
  ⟨by decide, by decide, by decide, by decide, rfl, rfl⟩

theorem witness_ResetStepResult : let s := inFlight (srcIs 0x1000 4) .crc []
    s.phase = .busy ∧ writesDst (decodeWord s.cmdword) = false := by decide

theorem witness_CommandInFlightCompletes : let s := inFlight State.reset .nop [.wait, rd .status]
    s.phase = .busy ∧ noReset s.agenda := by
  refine ⟨rfl, ?_⟩; unfold noReset; decide

theorem witness_IdleUnitKeepsItsState_and_WaitPollsUntilIdle :
    State.reset.phase = .idle ∧ (inFlight State.reset .nop []).phase = .busy := by decide

theorem witness_reset_inv : Inv State.reset := ⟨by decide, by decide, by simp [State.reset]⟩

/-- The container footer(0,0,0,0) at address 0, covered by a GATE (GA7). -/
def covered : State := { srcHolds 0 (footerBytes 0 0 0 0) with proven := [⟨0, 20, .stored⟩] }

theorem witness_covered_inv : Inv covered := by
  refine ⟨by decide +kernel, by decide +kernel, fun p hp => ?_⟩
  rw [List.mem_singleton.1 hp]
  refine ⟨?_, ?_, ?_, ?_, ?_, ?_⟩ <;> decide +kernel

/-- The other types of a sealed container: stored with unequal sizes, LZ4 (1 and 2), unknown. -/
theorem witness_SealedContainerPassesGate_types :
    (fields 7 0 0 0 0).fOsize ≠ (fields 7 0 0 0 0).srcLen ∧ (fields 7 0 0 1 0).fType = 1 ∧ (fields 7 0 0 2 0).fType = 2 ∧
      2 < (fields 7 0 0 3 0).fType.toNat := by decide

theorem witness_StepKeepsTheInvariant :
    gives (step (covered.setAgenda [.memWrite 19 0])) (fun t => decide (t.proven = [])) = true := by decide +kernel

theorem witness_PayloadUseIsGuarded :
    gives (step (covered.setAgenda [.usePayload ⟨0, 20, .stored⟩])) (fun t => decide (t.agenda = [])) = true ∧
      (⟨0, 20, .lz4⟩ : Proven) ∉ covered.proven := by decide +kernel

/-- GA7, completed at the unit's turn with a use to come, and by the step of the empty agenda. -/
theorem witness_PassingGateAllowsUse : let s := inFlight (srcHolds 0 (footerBytes 0 0 0 0)) .gate
    (s []).phase = .busy ∧ decodeWord (s []).cmdword = .gate ∧
      gives (step (s [])) (fun t => decide (t.err = .ok ∧ t.cls = .stored)) = true ∧
      gives (step (s [.unit, .usePayload ⟨0, 20, .stored⟩])) (fun t => decide (t.err = .ok) && gives (step t)
        (fun u => decide (u.agenda = []))) = true := by decide +kernel

/-- What uncovers a container: a write of its last byte, a BUILD over it, a reset that aborts one; a write of the byte behind
it does not. -/
theorem witness_PassingGateAllowsUse_uncovered :
    let uncovers := fun s : State => gives (step s) (fun t => decide (t.proven = []))
    uncovers (covered.setAgenda [.memWrite 19 0]) = true ∧ uncovers (inFlight covered .build []) = true ∧
      uncovers (inFlight covered .build [.reset]) = true ∧ uncovers (covered.setAgenda [.memWrite 20 0]) = false := by
  decide +kernel

/-- A covered container while idle, while a CRC is in flight, and while a BUILD elsewhere is. -/
theorem witness_PassingGateAllowsUse_covered : let p : Proven := ⟨0, 20, .stored⟩
    p ∈ covered.proven ∧ covered.phase = .idle ∧ writesDst (decodeWord (inFlight covered .crc []).cmdword) = false ∧
      p.region.overlaps (inFlight { covered with dstAddr := 20 } .build []).dst = false := by decide +kernel

/-- Each outcome of a step from an idle state: a state, a fault, a refusal. -/
theorem witness_CmdwordIsHiddenWhileIdle : State.reset.phase = .idle ∧
    gives (step (State.reset.setAgenda [wr .cmd 3])) (fun t => decide (t.phase = .busy)) = true ∧
    step (State.reset.setAgenda [.usePayload ⟨0, 20, .stored⟩]) = .fault .payloadNotProven ∧
    step (State.reset.setAgenda [.regRead 0x40 4]) = .refused .outsideWindow :=
  ⟨rfl, by decide +kernel, rfl, rfl⟩

end Sys2Proof.Machine.Tests
end

section
/-! PROOF. The CRC of R160 shifts towards the least significant bit; R8 names the parameters of one that shifts towards
the most significant bit. Bit reversal carries each operation of the second register to the first. -/

namespace Sys2Proof.Machine

/-- Reversal is bitwise, so it goes through XOR. -/
theorem reverse_xor {w : Nat} (x y : BitVec w) : (x ^^^ y).reverse = x.reverse ^^^ y.reverse := by
  ext i hi
  simp only [BitVec.getElem_xor, BitVec.getElem_reverse, BitVec.getMsbD_xor]

/-- A shift towards the top, seen in the mirror, is a shift towards the bottom. -/
theorem reverse_shiftLeft {w : Nat} (x : BitVec w) (n : Nat) : (x <<< n).reverse = x.reverse >>> n := by
  ext i hi
  simp only [BitVec.getElem_reverse, BitVec.getMsbD_shiftLeft, BitVec.getElem_ushiftRight, BitVec.getLsbD_reverse,
    Nat.add_comm]

/-- The reflected input byte, placed at the top of the register, is the byte itself at the bottom of the mirrored one. -/
theorem reverse_reflectedByte (b : Byte) : (b.reverse.setWidth 32 <<< 24).reverse = b.setWidth 32 := by
  ext i hi
  have hmsb : (b.reverse.setWidth 32).getMsbD (24 + i) = b.reverse.getMsbD i := by simp
  rw [reverse_shiftLeft, BitVec.getElem_ushiftRight, BitVec.getLsbD_reverse, hmsb, BitVec.getMsbD_reverse,
    BitVec.getElem_setWidth]

/-- One step of the register, mirrored, is one step of R160 with the mirrored polynomial. -/
theorem reverse_msbShift (poly c : Word) : (msbShift poly c).reverse = crcShift poly.reverse c.reverse := by
  have hbit : c.reverse.getLsbD 0 = c.getLsbD 31 := by
    simp only [BitVec.getLsbD_reverse, BitVec.getMsbD_eq_getLsbD]
    rfl
  unfold msbShift crcShift
  rw [hbit]
  split
  · rw [reverse_xor, reverse_shiftLeft]
  · exact reverse_shiftLeft c 1

theorem reverse_msbShifts (poly : Word) (n : Nat) (c : Word) :
    (msbShifts poly n c).reverse = crcShifts poly.reverse n c.reverse := by
  induction n generalizing c with
  | zero => rfl
  | succ n ih => rw [msbShifts, crcShifts, ih, reverse_msbShift]

/-- The mirrored register follows R160 over a byte sequence. -/
theorem reverse_msbFold (poly : Word) (bs : List Byte) (c : Word) :
    (msbFold poly c bs).reverse = crcFold poly.reverse c.reverse bs := by
  induction bs generalizing c with
  | nil => rfl
  | cons b bs ih => rw [msbFold, crcFold, ih, reverse_msbShifts, reverse_xor, reverse_reflectedByte, crcByte]

/-- Settles O28: 0xEDB88320 is 0x04C11DB7 mirrored, the initial value is its own mirror image, and the mirrored register
follows R160 (`reverse_msbFold`). -/
theorem crcEqualsReflectedForm : Obligations.CrcEqualsReflectedForm := by
  intro bs
  have hpoly : (0x04C11DB7#32).reverse = crcIsoHdlc.polyRev := by decide +kernel
  have hinit : (0xFFFFFFFF#32).reverse = crcIsoHdlc.init := by decide +kernel
  rw [crc32Reflected, reverse_msbFold, hpoly, hinit]
  rfl

end Sys2Proof.Machine
end

section
/-! PROOF. What every command does, said once: `exec_completes` gives its code, the registers it may have written (R62)
and the bytes it may have stored (R82), assembled from one lemma for each command that can write. -/

namespace Sys2Proof.Machine

/-! ### The registers a named update leaves alone -/

section
variable {r : Reg} (s : State)

theorem readReg_setCls (c : PayloadClass) (h : r ≠ .cls) : readReg r (s.setCls c) = readReg r s := by
  cases r with
  | cls => exact absurd rfl h
  | _ => rfl

theorem readReg_setCrcOut (c : Word) (h : r ≠ .crcOut) : readReg r (s.setCrcOut c) = readReg r s := by
  cases r with
  | crcOut => exact absurd rfl h
  | _ => rfl

theorem readReg_setFCrc (c : Word) (h : r ≠ .fCrc) : readReg r (s.setFCrc c) = readReg r s := by
  cases r with
  | fCrc => exact absurd rfl h
  | _ => rfl

theorem readReg_setFCsize (n : Word) (h : r ≠ .fCsize) : readReg r (s.setFCsize n) = readReg r s := by
  cases r with
  | fCsize => exact absurd rfl h
  | _ => rfl

theorem readReg_setFooter (f : Footer) (n : Word) (h : r ∉ [Reg.fOsize, .fCsize, .fCrc, .fType, .payLen]) :
    readReg r (s.setFooter f n) = readReg r s := by
  cases r with
  | fOsize | fCsize | fCrc | fType | payLen => exact absurd (by decide) h
  | _ => rfl

/-- A completion writes STATUS alone. -/
theorem readReg_complete (e : ErrCode) (h : r ≠ .status) : readReg r (s.complete e) = readReg r s := by
  cases r with
  | status => exact absurd rfl h
  | _ => rfl

end

/-! ### What a command keeps -/

/-- From `s` to `u` no register changes outside `rs` and STATUS, and none of the fields that no command may change. -/
structure KeepsBut (rs : List Reg) (s u : State) : Prop where
  regs    : ∀ r, r ≠ .status → r ∉ rs → readReg r u = readReg r s
  rej     : u.rej = s.rej
  cmdword : u.cmdword = s.cmdword
  agenda  : u.agenda = s.agenda
  reply   : u.reply = s.reply
  draws   : u.draws = s.draws
  proven  : u.proven = s.proven
  memKind : u.memKind = s.memKind

namespace KeepsBut
variable {rs : List Reg} {s u : State}

theorem refl (rs : List Reg) (s : State) : KeepsBut rs s s := ⟨fun _ _ _ => rfl, rfl, rfl, rfl, rfl, rfl, rfl, rfl⟩

/-- One more update, which changes registers of `rs` only. -/
theorem regs_trans (h : KeepsBut rs s u) {v : State} (hv : ∀ r, r ≠ .status → r ∉ rs → readReg r v = readReg r u) :
    ∀ r, r ≠ .status → r ∉ rs → readReg r v = readReg r s :=
  fun r hs hr => (hv r hs hr).trans (h.regs r hs hr)

theorem setCls (h : KeepsBut rs s u) (c : PayloadClass) (hr : .cls ∈ rs) : KeepsBut rs s (u.setCls c) :=
  { h with regs := h.regs_trans fun _ _ hn => readReg_setCls u c (ne_of_mem_of_not_mem hr hn).symm }

theorem setCrcOut (h : KeepsBut rs s u) (c : Word) (hr : .crcOut ∈ rs) : KeepsBut rs s (u.setCrcOut c) :=
  { h with regs := h.regs_trans fun _ _ hn => readReg_setCrcOut u c (ne_of_mem_of_not_mem hr hn).symm }

theorem setFCrc (h : KeepsBut rs s u) (c : Word) (hr : .fCrc ∈ rs) : KeepsBut rs s (u.setFCrc c) :=
  { h with regs := h.regs_trans fun _ _ hn => readReg_setFCrc u c (ne_of_mem_of_not_mem hr hn).symm }

theorem setFCsize (h : KeepsBut rs s u) (n : Word) (hr : .fCsize ∈ rs) : KeepsBut rs s (u.setFCsize n) :=
  { h with regs := h.regs_trans fun _ _ hn => readReg_setFCsize u n (ne_of_mem_of_not_mem hr hn).symm }

theorem setFooter (h : KeepsBut rs s u) (f : Footer) (n : Word)
    (hr : [Reg.fOsize, .fCsize, .fCrc, .fType, .payLen] ⊆ rs) : KeepsBut rs s (u.setFooter f n) :=
  { h with regs := h.regs_trans fun _ _ hn => readReg_setFooter u f n fun hm => hn (hr hm) }

theorem setMem (h : KeepsBut rs s u) (m : Memory) : KeepsBut rs s (u.setMem m) :=
  { h with regs := h.regs_trans fun r _ _ => by cases r <;> rfl }

end KeepsBut

/-! ### What a command does -/

/-- The stores of a BUILD or a SEAL that completes with OK: 20 bytes, at a DST in range. -/
def StoresDst (i : Instr) (e : ErrCode) (s u : State) : Prop :=
  writesDst i = true ∧ e = .ok ∧ s.dst.inRange ∧ ∃ bs : List Byte, bs.length = 20 ∧
    u.mem = memWrite s.mem s.dstAddr.toNat bs

/-- The command brings `s` to `u` and then completes with the outcome `e`: a code of its own (R231), no register written
outside its row (R62), and no byte stored but by a BUILD or SEAL that gives OK (R82). -/
structure RunsTo (i : Instr) (e : ErrCode) (s u : State) : Prop where
  code   : e ∈ outcomes i
  keeps  : KeepsBut (writtenRegs i e) s u
  stores : u.mem = s.mem ∨ StoresDst i e s u

/-- A completion with nothing else written. -/
theorem RunsTo.same {i : Instr} {e : ErrCode} (s : State) (h : e ∈ outcomes i) : RunsTo i e s s :=
  ⟨h, .refl _ s, .inl rfl⟩

/-- The outcome is a completion that `RunsTo` describes. -/
def Completes (i : Instr) (s : State) (o : Host.Outcome State Fault Refusal) : Prop :=
  ∃ e u, o = .next (u.complete e) ∧ RunsTo i e s u

theorem execParse_completes (s : State) : Completes .parse s (execParse s) := by
  rcases execParse_cases s with ⟨e, h, he⟩ | ⟨f, n, h⟩
  · exact ⟨e, s, h, .same s (by rcases he with rfl | rfl | rfl <;> decide)⟩
  · exact ⟨.ok, _, h, by decide, (KeepsBut.refl _ s).setFooter f n (by decide), .inl rfl⟩

theorem execBuild_completes (s : State) : Completes .build s (execBuild s) := by
  by_cases hd : s.dst.inRange
  · obtain ⟨bs, hl, h⟩ := execBuild_writes s hd
    exact ⟨.ok, _, h, by decide, (KeepsBut.refl _ s).setMem _, .inr ⟨rfl, rfl, hd, bs, hl, rfl⟩⟩
  · exact ⟨.range, s, execBuild_range hd, .same s (by decide)⟩

theorem execCrc_completes (s : State) : Completes .crc s (execCrc s) := by
  by_cases hr : s.src.inRange
  · exact ⟨.ok, _, execCrc_ok hr, by decide, (KeepsBut.refl _ s).setCrcOut _ (by decide), .inl rfl⟩
  · exact ⟨.range, s, execCrc_range hr, .same s (by decide)⟩

theorem execVsize_completes (s : State) : Completes .vsize s (execVsize s) := by
  by_cases h : s.srcLen = s.fCsize
  · exact ⟨.ok, s, execVsize_ok h, .same s (by decide)⟩
  · exact ⟨.size, s, execVsize_size h, .same s (by decide)⟩

theorem execVcrc_completes (s : State) : Completes .vcrc s (execVcrc s) := by
  by_cases hr : s.src.inRange
  · have keeps (e : ErrCode) (he : .crcOut ∈ writtenRegs .vcrc e) :=
      (KeepsBut.refl _ s).setCrcOut (srcCrc s s.srcLen.toNat) he
    by_cases hc : srcCrc s s.srcLen.toNat = s.fCrc
    · exact ⟨.ok, _, execVcrc_ok hr hc, by decide, keeps _ (by decide), .inl rfl⟩
    · exact ⟨.checksum, _, execVcrc_checksum hr hc, by decide, keeps _ (by decide), .inl rfl⟩
  · exact ⟨.range, s, execVcrc_range hr, .same s (by decide)⟩

theorem execTypechk_completes (s : State) : Completes .typechk s (execTypechk s) := by
  have keeps (e : ErrCode) : KeepsBut (writtenRegs .typechk e) s (s.setCls .noClass) :=
    (KeepsBut.refl _ s).setCls _ (List.mem_singleton_self _)
  rcases dispatchType_cases (s.setCls .noClass) with ⟨h, -⟩ | ⟨h, -⟩ | ⟨h, -⟩ | ⟨h, -⟩
  · exact ⟨.ok, _, h, by decide, (keeps _).setCls _ (by decide), .inl rfl⟩
  · exact ⟨.storedSize, _, h, by decide, keeps _, .inl rfl⟩
  · exact ⟨.ok, _, h, by decide, (keeps _).setCls _ (by decide), .inl rfl⟩
  · exact ⟨.unknownType, _, h, by decide, keeps _, .inl rfl⟩

theorem execVdec_completes (s : State) : Completes .vdec s (execVdec s) := by
  by_cases h : s.lz4Res = 0xFFFFFFFF#32 ∨ s.lz4Res ≠ s.fOsize
  · exact ⟨.decodedSize, s, execVdec_decodedSize h, .same s (by decide)⟩
  · obtain ⟨h, ho⟩ := not_or.1 h
    exact ⟨.ok, s, execVdec_ok h (not_not.1 ho), .same s (by decide)⟩

theorem execGate_completes (s : State) : Completes .gate s (execGate s) := by
  have cls (e : ErrCode) (he : .cls ∈ writtenRegs .gate e) := (KeepsBut.refl _ s).setCls .noClass he
  rcases execGate_cases s with ⟨e, h, he⟩ | ⟨f, n, h | ⟨c, h | h | h | ⟨k, h⟩⟩⟩
  · rcases he with rfl | rfl | rfl <;> exact ⟨_, _, h, by decide, cls _ (by decide), .inl rfl⟩
  · exact ⟨.size, _, h, by decide, (cls _ (by decide)).setFooter f n (by decide), .inl rfl⟩
  · exact ⟨.checksum, _, h, by decide,
      ((cls _ (by decide)).setFooter f n (by decide)).setCrcOut c (by decide), .inl rfl⟩
  · exact ⟨.storedSize, _, h, by decide,
      ((cls _ (by decide)).setFooter f n (by decide)).setCrcOut c (by decide), .inl rfl⟩
  · exact ⟨.unknownType, _, h, by decide,
      ((cls _ (by decide)).setFooter f n (by decide)).setCrcOut c (by decide), .inl rfl⟩
  · exact ⟨.ok, _, h, by decide,
      (((cls _ (by decide)).setFooter f n (by decide)).setCrcOut c (by decide)).setCls k (by decide), .inl rfl⟩

theorem execSeal_completes (s : State) : Completes .sealFooter s (execSeal s) := by
  by_cases h : s.src.inRange ∧ s.dst.inRange
  · obtain ⟨bs, c, hl, hx⟩ := execSeal_writes s h.1 h.2
    exact ⟨.ok, _, hx, by decide,
      ((((KeepsBut.refl _ s).setCrcOut c (by decide)).setFCrc c (by decide)).setFCsize _ (by decide)).setMem _,
      .inr ⟨rfl, rfl, h.2, bs, hl, rfl⟩⟩
  · exact ⟨.range, s, execSeal_range (not_and_or.1 h), .same s (by decide)⟩

/-- Every command completes from every state, as its row says (R60, R62, R231). -/
theorem exec_completes (i : Instr) (s : State) : Completes i s (exec i s) := by
  cases i with
  | nop => exact ⟨.ok, s, rfl, .same s (by decide)⟩
  | parse => exact execParse_completes s
  | build => exact execBuild_completes s
  | crc => exact execCrc_completes s
  | vsize => exact execVsize_completes s
  | vcrc => exact execVcrc_completes s
  | typechk => exact execTypechk_completes s
  | vdec => exact execVdec_completes s
  | gate => exact execGate_completes s
  | sealFooter => exact execSeal_completes s
  | illegalAB | illegalCF | illegalZ => exact ⟨.illegal, s, rfl, .same s List.mem_cons_self⟩

/-- The same for an outcome at hand. -/
theorem exec_next {i : Instr} {s t : State} (h : exec i s = .next t) : ∃ e u, t = u.complete e ∧ RunsTo i e s u := by
  obtain ⟨e, u, hu, hr⟩ := exec_completes i s
  rw [h] at hu
  cases hu
  exact ⟨e, u, rfl, hr⟩

/-- Settles O16: `exec_completes` gives the code, and a completion sets the phase and DONE. -/
theorem everyCommandCompletes : Obligations.EveryCommandCompletes := by
  intro i s
  obtain ⟨e, u, hu, hr⟩ := exec_completes i s
  exact ⟨u.complete e, hu, rfl, rfl, hr.code, hr.keeps.rej⟩

/-- Settles O18: `exec_next` says what the command wrote before it completed, and a completion writes STATUS alone. -/
theorem commandsWriteOnlyTheirRegisters : Obligations.CommandsWriteOnlyTheirRegisters := by
  intro i s t ht
  obtain ⟨e, u, rfl, hr⟩ := exec_next ht
  have hk := hr.keeps
  refine ⟨fun r hs hn => (readReg_complete u e hs).trans (hk.regs r hs hn), fun hd => ?_, hk.rej, hk.cmdword, hk.agenda,
    hk.reply, hk.draws, hk.proven, hk.memKind⟩
  rcases hr.stores with h | ⟨hw, he, -⟩
  · exact h
  · exact absurd he (hd.resolve_left (by simp [hw]))

end Sys2Proof.Machine
end

section
/-! PROOF. The invariant: one lemma for each kind of step that touches memory or the covered containers (a completion, a
write by another agent, a reset); the other steps leave both alone. -/

namespace Sys2Proof.Machine

/-- What a completion makes of the covered containers: GATE with OK adds its own, BUILD and SEAL with OK take away those
they wrote into. -/
theorem noteCompletion_eq_ite (i : Instr) (t : State) : noteCompletion i t = { t with
    proven :=
      if i = .gate ∧ t.err = .ok then t.proven.insert ⟨t.srcAddr, t.srcLen, t.cls⟩
      else if writesDst i = true ∧ t.err = .ok then t.proven.filter (fun p => !p.region.overlaps t.dst)
      else t.proven } := by
  cases i with
  | gate | build | sealFooter => by_cases h : t.err = .ok <;> simp [noteCompletion, writesDst, h, State.noteWritten]
  | _ => simp [noteCompletion, writesDst]

theorem noteCompletion_proven (i : Instr) (t : State) : (noteCompletion i t).proven =
    if i = .gate ∧ t.err = .ok then t.proven.insert ⟨t.srcAddr, t.srcLen, t.cls⟩
    else if writesDst i = true ∧ t.err = .ok then t.proven.filter (fun p => !p.region.overlaps t.dst)
    else t.proven := by
  rw [noteCompletion_eq_ite]

section
variable (i : Instr) (t : State)
@[simp] theorem noteCompletion_err : (noteCompletion i t).err = t.err := by rw [noteCompletion_eq]
@[simp] theorem noteCompletion_phase : (noteCompletion i t).phase = t.phase := by rw [noteCompletion_eq]
@[simp] theorem noteCompletion_done : (noteCompletion i t).done = t.done := by rw [noteCompletion_eq]
@[simp] theorem noteCompletion_rej : (noteCompletion i t).rej = t.rej := by rw [noteCompletion_eq]
@[simp] theorem noteCompletion_mem : (noteCompletion i t).mem = t.mem := by rw [noteCompletion_eq]
end

/-- The store of a command keeps memory in its canonical form: it lies at a DST in range. -/
theorem RunsTo.memory_wf {i : Instr} {e : ErrCode} {s u : State} (h : RunsTo i e s u) (hm : Memory.wf s.mem) :
    Memory.wf u.mem := by
  rcases h.stores with hu | ⟨-, -, hd, bs, hl, hu⟩ <;> rw [hu]
  · exact hm
  · exact memWrite_wf hm (hl ▸ hd)

/-- A command stores no byte outside DST (R82). -/
theorem RunsTo.read_outside {i : Instr} {e : ErrCode} {s u : State} (h : RunsTo i e s u) {x : Nat}
    (hx : x < s.dst.start ∨ s.dst.start + s.dst.len ≤ x) : Memory.read u.mem x = Memory.read s.mem x := by
  rcases h.stores with hu | ⟨-, -, -, bs, hl, hu⟩ <;> rw [hu]
  exact read_memWrite_outside (hl.symm ▸ hx)

/-- The container of a GATE that gave OK passes the gate (R182, R185). -/
theorem execGate_ok_holds {s t : State} (h : execGate s = .next t) (he : t.err = .ok) :
    Proven.holds ⟨s.srcAddr, s.srcLen, t.cls⟩ s.mem := by
  obtain ⟨hr, h20, hm, hsize, hcrc, -, hcls⟩ := execGate_passed h (.inl he)
  exact ⟨hr, h20, hm, by rw [hsize, toNat_sub_footerLen _ h20], hcrc.symm, hcls he⟩

/-- A command that is not BUILD or SEAL, or does not give OK, stores nothing (R82, R232). -/
theorem RunsTo.mem_eq {i : Instr} {e : ErrCode} {s u : State} (h : RunsTo i e s u)
    (hd : ¬ (writesDst i = true ∧ e = .ok)) : u.mem = s.mem :=
  h.stores.resolve_right fun ⟨hw, he, _⟩ => hd ⟨hw, he⟩

/-- The rows of R62 hold footer and result registers only. -/
theorem writtenRegs_subset (i : Instr) (e : ErrCode) :
    writtenRegs i e ⊆ [.fOsize, .fCsize, .fCrc, .fType, .payLen, .crcOut, .cls] := by
  cases i with
  | parse | crc | vcrc | sealFooter => simp only [writtenRegs]; split <;> decide
  | gate =>
    simp only [writtenRegs]
    split
    · decide
    · split <;> decide
  | typechk => simp [writtenRegs]
  | _ => exact List.nil_subset _

/-- No command moves SRC or DST. -/
theorem RunsTo.regions {i : Instr} {e : ErrCode} {s u : State} (h : RunsTo i e s u) :
    u.srcAddr = s.srcAddr ∧ u.srcLen = s.srcLen ∧ u.dstAddr = s.dstAddr := by
  have notWritten {r : Reg} (hr : r ∉ [Reg.fOsize, .fCsize, .fCrc, .fType, .payLen, .crcOut, .cls]) :
      r ∉ writtenRegs i e := fun hm => hr (writtenRegs_subset i e hm)
  exact ⟨h.keeps.regs .srcAddr (by decide) (notWritten (by decide)),
    h.keeps.regs .srcLen (by decide) (notWritten (by decide)),
    h.keeps.regs .dstAddr (by decide) (notWritten (by decide))⟩

/-- A completion leaves covered only what passes the gate: GATE adds a container that does, and a store takes away every
container it may have changed (R185, R269). -/
theorem covered_noteCompletion {i : Instr} {s t : State} (hs : ∀ p ∈ s.proven, p.holds s.mem)
    (h : exec i s = .next t) : ∀ p ∈ (noteCompletion i t).proven, p.holds t.mem := by
  obtain ⟨e, u, rfl, hr⟩ := exec_next h
  have hmem : (u.complete e).mem = u.mem := rfl
  have hproven : (u.complete e).proven = s.proven := hr.keeps.proven
  obtain ⟨hsrc, hlen, hdst⟩ := hr.regions
  rw [noteCompletion_proven, hmem, hproven]
  split
  · rename_i hg
    obtain ⟨rfl, he⟩ := hg
    rw [hr.mem_eq (by simp [writesDst])]
    intro p hp
    rcases List.mem_insert_iff.1 hp with rfl | hp
    · have hnew := execGate_ok_holds h he
      rwa [← hsrc, ← hlen] at hnew
    · exact hs p hp
  · split
    · refine holds_of_not_overlaps hs fun x hx => hr.read_outside ?_
      simpa [hdst] using hx
    · rename_i hd
      rw [hr.mem_eq hd]
      exact hs

namespace Inv
variable {s t : State}

/-- A completion, with the note of it, keeps the invariant. -/
theorem completion (hs : Inv s) {i : Instr} (h : exec i s = .next t) : Inv (noteCompletion i t) := by
  have hmem := noteCompletion_mem i t
  have hcovered := covered_noteCompletion hs.covered h
  obtain ⟨e, u, rfl, hr⟩ := exec_next h
  exact ⟨hmem ▸ hr.memory_wf hs.memory, fun hb => (nomatch (noteCompletion_phase _ _).symm.trans hb),
    hmem ▸ hcovered⟩

/-- A step that touches none of the four fields the invariant speaks of keeps it. -/
theorem of_same (hs : Inv s) (hm : t.mem = s.mem) (hp : t.proven = s.proven) (hph : t.phase = s.phase)
    (hd : t.done = s.done) : Inv t :=
  ⟨hm ▸ hs.memory, fun hb => hd ▸ hs.notDone (hph ▸ hb), hm ▸ hp ▸ hs.covered⟩

/-- A register write keeps the invariant: an issue, which alone sets BUSY, clears DONE (R59). -/
theorem writeReg (hs : Inv s) (r : Reg) (v : Word) : Inv (writeReg r v s) := by
  obtain ⟨hm, -, -, -, -, hp, -⟩ := writeReg_keeps r v s
  refine ⟨hm ▸ hs.memory, fun hb => ?_, hm ▸ hp ▸ hs.covered⟩
  rw [writeReg_phase] at hb
  rw [writeReg_done]
  cases hph : s.phase with
  | idle =>
    have hc : r = .cmd := by_contra fun hc => by simp [hc, hph] at hb
    simp [hc]
  | busy => simp [hs.notDone hph]

/-- A byte written by another agent uncovers the containers it lies in (R185). -/
theorem memWrite (hs : Inv s) (a : Word) (b : Byte) :
    Inv ((s.setMem (Memory.write s.mem a.toNat b)).noteWritten ⟨a.toNat, 1⟩) :=
  ⟨Memory.write_wf hs.memory a.isLt, hs.notDone,
    holds_of_not_overlaps hs.covered fun x hx => Memory.read_write_ne (by simp at hx; omega)⟩

/-- What an aborted BUILD or SEAL leaves in DST uncovers the containers there (R185, R261). -/
theorem abortWrites (hs : Inv s) : Memory.wf (abortWrites s).mem ∧
    ∀ p ∈ (abortWrites s).proven, p.holds (abortWrites s).mem := by
  unfold Machine.abortWrites
  split
  · exact ⟨hs.memory, hs.covered⟩
  · split
    · exact ⟨drawRegion_wf _ _ _ hs.memory, holds_of_not_overlaps hs.covered fun _ hx => read_drawRegion_outside hx⟩
    · exact ⟨hs.memory, hs.covered⟩

theorem resetStep (hs : Inv s) : Inv (resetStep s) :=
  ⟨hs.abortWrites.1, fun _ => rfl, hs.abortWrites.2⟩

/-- The agenda is none of the invariant's business. -/
theorem setAgenda (hs : Inv s) (es : List Event) : Inv (s.setAgenda es) := hs.of_same rfl rfl rfl rfl

end Inv

/-- Settles O54, one lemma of `Inv` for each kind of step that `step_cases` lists. -/
theorem stepKeepsTheInvariant : Obligations.StepKeepsTheInvariant := by
  intro s t hs h
  rcases step_cases h with ⟨-, ⟨-, rfl⟩ | ⟨rest, -, rfl⟩⟩ | ⟨-, -, rest, u, -, hu, rfl⟩ | ⟨r, v, rest, -, rfl⟩ |
    ⟨e, rest, es, p, d, -, -, -, -, rfl⟩ | ⟨a, b, rest, -, -, -, -, rfl⟩ | ⟨rest, -, rfl⟩
  · exact hs
  · exact hs.setAgenda rest
  · exact (hs.setAgenda rest).completion hu
  · exact (hs.setAgenda rest).writeReg r v
  · exact hs.of_same rfl rfl rfl rfl
  · exact (hs.setAgenda rest).memWrite a b
  · exact (hs.setAgenda rest).resetStep

/-- Settles O55: nothing is listed in memory and no container is covered. -/
theorem resetMeetsTheInvariant : Obligations.ResetMeetsTheInvariant :=
  ⟨⟨.nil, by simp [State.reset]⟩, fun _ => rfl, by simp [State.reset]⟩

end Sys2Proof.Machine
end

section
/-! PROOF. The hidden command word while idle (R58, I20): each agent's step from an idle state with another word in it
answers the same outcome, up to that word (`AgreeButCmdword`). -/

namespace Sys2Proof.Machine

/-- Two outcomes of a step that differ at most in the hidden word, and not in it once a command is in flight. -/
structure AgreeButCmdword (o o' : Host.Outcome State Fault Refusal) : Prop where
  next    : ∀ t, o = .next t → ∃ w, o' = .next (t.setCmdword w) ∧ (t.phase = .busy → w = t.cmdword)
  fault   : ∀ r, o = .fault r → o' = .fault r
  refused : ∀ r, o = .refused r → o' = .refused r

namespace AgreeButCmdword

/-- The same state but for the word, with no command in flight. -/
theorem of_idle {t : State} (w : Word) (h : t.phase = .idle) : AgreeButCmdword (.next t) (.next (t.setCmdword w)) where
  next := by rintro _ ⟨⟩; exact ⟨w, rfl, fun hb => (nomatch h.symm.trans hb)⟩
  fault _ h := nomatch h
  refused _ h := nomatch h

/-- The very same outcome. -/
theorem refl (o : Host.Outcome State Fault Refusal) : AgreeButCmdword o o where
  next t h := ⟨t.cmdword, h, fun _ => rfl⟩
  fault _ h := h
  refused _ h := h

/-- A register access decides by offset and width alone whether it is refused. -/
theorem busAccess {off bytes : Nat} {k k' : Reg → State} (h : ∀ r, AgreeButCmdword (.next (k r)) (.next (k' r))) :
    AgreeButCmdword (busAccess off bytes k) (busAccess off bytes k') := by
  unfold Machine.busAccess
  split
  · exact .refl _
  · cases regAt off with
    | none => exact .refl _
    | some r => exact h r

end AgreeButCmdword

@[simp] theorem State.nonOrdinary_setCmdword (s : State) (w : Word) (a : Nat) :
    (s.setCmdword w).nonOrdinary a = s.nonOrdinary a := rfl

section
variable {s : State} (hs : s.phase = .idle) (w : Word)
include hs

/-- While idle no region is in use, whatever the hidden word is. -/
theorem srcBusy_idle (a : Nat) : s.srcBusy a = false := by simp only [State.srcBusy, inFlight_idle hs]

theorem dstBusy_idle (a : Nat) : s.dstBusy a = false := by simp only [State.dstBusy, inFlight_idle hs]

theorem dstBusyOver_idle (r : Region) : s.dstBusyOver r = false := by simp only [State.dstBusyOver, inFlight_idle hs]

/-- No register shows the hidden word. -/
theorem hostRegRead_setCmdword (off bytes : Nat) :
    AgreeButCmdword (hostRegRead off bytes s) (hostRegRead off bytes (s.setCmdword w)) :=
  .busAccess fun r => by cases r <;> exact .of_idle w hs

/-- An issue overwrites the hidden word; a write of any other register leaves it. -/
theorem writeReg_setCmdword (r : Reg) (v : Word) :
    AgreeButCmdword (.next (writeReg r v s)) (.next (writeReg r v (s.setCmdword w))) := by
  have hs' : (s.setCmdword w).phase = .idle := hs
  by_cases hr : r = .cmd
  · subst hr
    simp only [writeReg, ifIdle_idle hs, ifIdle_idle hs']
    exact .refl _
  · have heq : writeReg r v (s.setCmdword w) = (writeReg r v s).setCmdword w := by
      cases r with
      | cmd => exact absurd rfl hr
      | ctrl | magic | crcOut | payLen | cls | reserved => rfl
      | status => simp only [writeReg, writeStatus_eq]; rfl
      | _ => simp only [writeReg, ifIdle_idle hs, ifIdle_idle hs']; rfl
    rw [heq]
    exact .of_idle w (by rw [writeReg_phase, if_neg hr, hs])

theorem hostMemRead_idle (a : Word) : hostMemRead a s =
    if s.nonOrdinary a.toNat then .refused .nonOrdinaryMemory
    else .next (s.setReply (.byte (Memory.read s.mem a.toNat))) := by
  rw [hostMemRead, dstBusy_idle hs, if_neg Bool.false_ne_true]

theorem hostMemWrite_idle (a : Word) (b : Byte) : hostMemWrite a b s =
    if s.nonOrdinary a.toNat then .refused .nonOrdinaryMemory
    else .next ((s.setMem (Memory.write s.mem a.toNat b)).noteWritten ⟨a.toNat, 1⟩) := by
  rw [hostMemWrite, srcBusy_idle hs, dstBusy_idle hs, if_neg Bool.false_ne_true, if_neg Bool.false_ne_true]

theorem hostUsePayload_idle (p : Proven) :
    hostUsePayload p s = if p ∈ s.proven then .next s else .fault .payloadNotProven := by
  simp only [hostUsePayload, dstBusyOver_idle hs, and_true]

theorem hostMemRead_setCmdword (a : Word) : AgreeButCmdword (hostMemRead a s) (hostMemRead a (s.setCmdword w)) := by
  rw [hostMemRead_idle hs, hostMemRead_idle (s := s.setCmdword w) hs, State.nonOrdinary_setCmdword]
  split
  · exact .refl _
  · exact .of_idle w hs

theorem hostMemWrite_setCmdword (a : Word) (b : Byte) :
    AgreeButCmdword (hostMemWrite a b s) (hostMemWrite a b (s.setCmdword w)) := by
  rw [hostMemWrite_idle hs, hostMemWrite_idle (s := s.setCmdword w) hs, State.nonOrdinary_setCmdword]
  split
  · exact .refl _
  · exact .of_idle w hs

theorem hostUsePayload_setCmdword (p : Proven) :
    AgreeButCmdword (hostUsePayload p s) (hostUsePayload p (s.setCmdword w)) := by
  rw [hostUsePayload_idle hs, hostUsePayload_idle (s := s.setCmdword w) hs, State.setCmdword_proven]
  split
  · exact .of_idle w hs
  · exact .refl _

/-- `wait` shows STATUS, which the hidden word is no part of. -/
theorem hostWait_setCmdword : AgreeButCmdword (hostWait s) (hostWait (s.setCmdword w)) := .of_idle w hs

theorem unitStep_setCmdword : AgreeButCmdword (unitStep s) (unitStep (s.setCmdword w)) := by
  rw [unitStep_idle hs, unitStep_idle (s := s.setCmdword w) hs]
  exact .of_idle w hs

/-- A reset of an idle unit aborts nothing. -/
theorem resetStep_setCmdword : resetStep (s.setCmdword w) = resetStep s := by
  unfold resetStep
  rw [abortWrites_of_no_write (.inl hs), abortWrites_of_no_write (s := s.setCmdword w) (.inl hs)]
  rfl

theorem eventStep_setCmdword (e : Event) : AgreeButCmdword (eventStep e s) (eventStep e (s.setCmdword w)) := by
  cases e with
  | regRead off bytes => exact hostRegRead_setCmdword hs w off bytes
  | regWrite off bytes v => exact .busAccess fun r => writeReg_setCmdword hs w r v
  | memRead a => exact hostMemRead_setCmdword hs w a
  | memWrite a b => exact hostMemWrite_setCmdword hs w a b
  | wait => exact hostWait_setCmdword hs w
  | usePayload p => exact hostUsePayload_setCmdword hs w p
  | unit => exact unitStep_setCmdword hs w
  | reset =>
    show AgreeButCmdword (.next (resetStep s)) (.next (resetStep (s.setCmdword w)))
    rw [resetStep_setCmdword hs w]
    exact .refl _

theorem step_setCmdword : AgreeButCmdword (step s) (step (s.setCmdword w)) := by
  cases ha : s.agenda with
  | nil =>
    rw [step_empty ha, step_empty (s := s.setCmdword w) ha]
    exact unitStep_setCmdword hs w
  | cons e rest =>
    rw [step_cons ha, step_cons (s := s.setCmdword w) ha]
    exact eventStep_setCmdword (s := s.setAgenda rest) hs w e

end

/-- Settles O58: `step_setCmdword`, in the words of the statement. -/
theorem cmdwordIsHiddenWhileIdle : Obligations.CmdwordIsHiddenWhileIdle := fun _ w hs =>
  have h := step_setCmdword hs w
  ⟨h.next, h.fault, h.refused⟩

end Sys2Proof.Machine
end

section
/-! PROOF. A command is a function of its inputs (R67, R124): two runs from the same inputs take the same branch, so
they complete with one code, and what each writes is computed from inputs alone. -/

namespace Sys2Proof.Machine

/-! ### States that show the same registers -/

/-- The registers `rs` read alike in both states. -/
def AgreeOn (rs : List Reg) (u v : State) : Prop := ∀ r ∈ rs, readReg r u = readReg r v

namespace AgreeOn
variable {rs qs : List Reg} {u v : State}

theorem nil (u v : State) : AgreeOn [] u v := List.forall_mem_nil _

theorem mono (h : AgreeOn rs u v) (hq : qs ⊆ rs) : AgreeOn qs u v := fun r hr => h r (hq hr)

/-- One more register written with one value in both. -/
theorem cons {u' v' : State} {r : Reg} (h : AgreeOn rs u v) (hr : readReg r u' = readReg r v')
    (hu : ∀ q, q ≠ r → readReg q u' = readReg q u) (hv : ∀ q, q ≠ r → readReg q v' = readReg q v) :
    AgreeOn (r :: rs) u' v' := by
  intro q hq
  by_cases hqr : q = r
  · exact hqr ▸ hr
  · rw [hu q hqr, hv q hqr]
    exact h q ((List.mem_cons.1 hq).resolve_left hqr)

theorem setCls (h : AgreeOn rs u v) (c : PayloadClass) : AgreeOn (.cls :: rs) (u.setCls c) (v.setCls c) :=
  h.cons rfl (fun _ => readReg_setCls u c) (fun _ => readReg_setCls v c)

theorem setCrcOut (h : AgreeOn rs u v) (c : Word) : AgreeOn (.crcOut :: rs) (u.setCrcOut c) (v.setCrcOut c) :=
  h.cons rfl (fun _ => readReg_setCrcOut u c) (fun _ => readReg_setCrcOut v c)

theorem setFooter (h : AgreeOn rs u v) (f : Footer) (n : Word) :
    AgreeOn ([.fOsize, .fCsize, .fCrc, .fType, .payLen] ++ rs) (u.setFooter f n) (v.setFooter f n) := by
  intro r hr
  by_cases hf : r ∈ [Reg.fOsize, .fCsize, .fCrc, .fType, .payLen]
  · cases r with
    | fOsize | fCsize | fCrc | fType | payLen => rfl
    | _ => exact absurd hf (by decide)
  · rw [readReg_setFooter u f n hf, readReg_setFooter v f n hf]
    exact h r ((List.mem_append.1 hr).resolve_left hf)

end AgreeOn

/-- The same bytes written over two memories are the same bytes there. -/
theorem sameBytes_memWrite (m m' : Memory) (a : Nat) {bs : List Byte} {n : Nat} (hn : bs.length = n) :
    sameBytes (memWrite m a bs) (memWrite m' a bs) a n := by
  intro x h1 h2
  obtain ⟨i, rfl⟩ := Nat.exists_eq_add_of_le h1
  have hi : i < bs.length := by omega
  rw [read_memWrite_inside i hi, read_memWrite_inside i hi]

/-! ### The same inputs -/

/-- Two outcomes are completions with one code that write the row of this command alike, and leave the same bytes in the
20 at `a` where the command stores there. -/
def SameResult (i : Instr) (a : Nat) (o o' : Host.Outcome State Fault Refusal) : Prop :=
  ∃ e u v, o = .next (u.complete e) ∧ o' = .next (v.complete e) ∧ AgreeOn (writtenRegs i e) u v ∧
    (writesDst i = true → e = .ok → sameBytes u.mem v.mem a 20)

section
variable {s s' : State}

theorem sameInputs.srcBytes {i : Instr} (h : sameInputs i s s') (hr : readsSrc i = true) :
    sameBytes s.mem s'.mem s.srcAddr.toNat s.srcLen.toNat :=
  fun x h1 h2 => h.2 hr x (Region.contains_iff.2 ⟨h1, h2⟩)

theorem src_eq_of_regs (ha : s.srcAddr = s'.srcAddr) (hl : s.srcLen = s'.srcLen) : s'.src = s.src := by
  unfold State.src; rw [ha, hl]

theorem dst_eq_of_reg (hd : s.dstAddr = s'.dstAddr) : s'.dst = s.dst := by unfold State.dst; rw [hd]

/-- The CRC of SRC reads SRC alone. -/
theorem srcCrc_eq_of_src (ha : s.srcAddr = s'.srcAddr) (hl : s.srcLen = s'.srcLen)
    (hb : sameBytes s.mem s'.mem s.srcAddr.toNat s.srcLen.toNat) :
    srcCrc s' s'.srcLen.toNat = srcCrc s s.srcLen.toNat := by
  rw [← hl, srcCrc_congr ha hb]

/-- The parse of SRC reads SRC alone. -/
theorem parseFooter_eq_of_src (ha : s.srcAddr = s'.srcAddr) (hl : s.srcLen = s'.srcLen)
    (hb : sameBytes s.mem s'.mem s.srcAddr.toNat s.srcLen.toNat) :
    parseFooter s.mem s.srcAddr.toNat s.srcLen.toNat = parseFooter s'.mem s'.srcAddr.toNat s'.srcLen.toNat := by
  rw [← ha, ← hl, parseFooter_congr hb]

theorem parseFooter_error_code {m : Memory} {a n : Nat} {e : ErrCode} (h : parseFooter m a n = .error e) :
    e = .range ∨ e = .format ∨ e = .short := by
  rcases parseFooter_cases m a n with ⟨h', -⟩ | ⟨h', -⟩ | ⟨h', -⟩ | ⟨h', -⟩ <;> cases h.symm.trans h' <;> simp

theorem parseFooter_ok_length {m : Memory} {a n : Nat} {f : Footer} (h : parseFooter m a n = .ok f) : 20 ≤ n := by
  rcases parseFooter_cases m a n with ⟨h', -⟩ | ⟨h', -⟩ | ⟨h', -⟩ | ⟨-, -, h20, -⟩
  · cases h.symm.trans h'
  · cases h.symm.trans h'
  · cases h.symm.trans h'
  · exact h20

theorem execParse_sameResult {a : Nat} (h : sameInputs .parse s s') :
    SameResult .parse a (execParse s) (execParse s') := by
  have ha : s.srcAddr = s'.srcAddr := h.1 .srcAddr (by decide)
  have hl : s.srcLen = s'.srcLen := h.1 .srcLen (by decide)
  have hp := parseFooter_eq_of_src ha hl (h.srcBytes rfl)
  cases hf : parseFooter s.mem s.srcAddr.toNat s.srcLen.toNat with
  | error e =>
    refine ⟨e, s, s', execParse_error hf, execParse_error (hp ▸ hf), ?_, nofun⟩
    rcases parseFooter_error_code hf with rfl | rfl | rfl <;> exact .nil s s'
  | ok f =>
    refine ⟨.ok, _, _, execParse_ok hf, execParse_ok (hp ▸ hf), ?_, nofun⟩
    rw [← hl]
    exact (AgreeOn.nil s s').setFooter f _

theorem execBuild_sameResult (h : sameInputs .build s s') :
    SameResult .build s.dstAddr.toNat (execBuild s) (execBuild s') := by
  have hd : s.dstAddr = s'.dstAddr := h.1 .dstAddr (by decide)
  have ho : s.fOsize = s'.fOsize := h.1 .fOsize (by decide)
  have hc : s.fCsize = s'.fCsize := h.1 .fCsize (by decide)
  have hk : s.fCrc = s'.fCrc := h.1 .fCrc (by decide)
  have ht : s.fType = s'.fType := h.1 .fType (by decide)
  have hdst := dst_eq_of_reg hd
  by_cases hr : s.dst.inRange
  · refine ⟨.ok, _, _, execBuild_ok hr, execBuild_ok (hdst ▸ hr), .nil _ _, fun _ _ => ?_⟩
    rw [State.setMem_mem, State.setMem_mem, ← hd, ← ho, ← hc, ← hk, ← ht]
    exact sameBytes_memWrite _ _ _ (footerBytes_length ..)
  · exact ⟨.range, s, s', execBuild_range hr, execBuild_range (hdst ▸ hr), .nil _ _, nofun⟩

theorem execCrc_sameResult {a : Nat} (h : sameInputs .crc s s') : SameResult .crc a (execCrc s) (execCrc s') := by
  have ha : s.srcAddr = s'.srcAddr := h.1 .srcAddr (by decide)
  have hl : s.srcLen = s'.srcLen := h.1 .srcLen (by decide)
  have hsrc := src_eq_of_regs ha hl
  have hcrc := srcCrc_eq_of_src ha hl (h.srcBytes rfl)
  by_cases hr : s.src.inRange
  · refine ⟨.ok, _, _, execCrc_ok hr, execCrc_ok (hsrc ▸ hr), ?_, nofun⟩
    rw [hcrc]
    exact (AgreeOn.nil s s').setCrcOut _
  · exact ⟨.range, s, s', execCrc_range hr, execCrc_range (hsrc ▸ hr), .nil _ _, nofun⟩

theorem execVsize_sameResult {a : Nat} (h : sameInputs .vsize s s') :
    SameResult .vsize a (execVsize s) (execVsize s') := by
  have hl : s.srcLen = s'.srcLen := h.1 .srcLen (by decide)
  have hc : s.fCsize = s'.fCsize := h.1 .fCsize (by decide)
  by_cases hs : s.srcLen = s.fCsize
  · exact ⟨.ok, s, s', execVsize_ok hs, execVsize_ok (hl ▸ hc ▸ hs), .nil _ _, nofun⟩
  · exact ⟨.size, s, s', execVsize_size hs, execVsize_size (hl ▸ hc ▸ hs), .nil _ _, nofun⟩

theorem execVcrc_sameResult {a : Nat} (h : sameInputs .vcrc s s') : SameResult .vcrc a (execVcrc s) (execVcrc s') := by
  have ha : s.srcAddr = s'.srcAddr := h.1 .srcAddr (by decide)
  have hl : s.srcLen = s'.srcLen := h.1 .srcLen (by decide)
  have hk : s.fCrc = s'.fCrc := h.1 .fCrc (by decide)
  have hsrc := src_eq_of_regs ha hl
  have hcrc := srcCrc_eq_of_src ha hl (h.srcBytes rfl)
  by_cases hr : s.src.inRange
  · have hout : AgreeOn [.crcOut] (s.setCrcOut (srcCrc s s.srcLen.toNat)) (s'.setCrcOut (srcCrc s' s'.srcLen.toNat)) :=
      hcrc ▸ (AgreeOn.nil s s').setCrcOut _
    by_cases hc : srcCrc s s.srcLen.toNat = s.fCrc
    · exact ⟨.ok, _, _, execVcrc_ok hr hc, execVcrc_ok (hsrc ▸ hr) (hcrc.trans (hc.trans hk)), hout, nofun⟩
    · exact ⟨.checksum, _, _, execVcrc_checksum hr hc, execVcrc_checksum (hsrc ▸ hr) (hcrc.symm ▸ hk ▸ hc), hout, nofun⟩
  · exact ⟨.range, s, s', execVcrc_range hr, execVcrc_range (hsrc ▸ hr), .nil _ _, nofun⟩

/-- The type dispatch reads F_TYPE, F_OSIZE and F_CSIZE, and writes CLASS alike. -/
theorem dispatchType_same {rs : List Reg} (hrs : AgreeOn rs s s') (ht : s.fType = s'.fType)
    (ho : s.fOsize = s'.fOsize) (hn : s.fCsize = s'.fCsize) :
    ∃ e u v, dispatchType s = .next (u.complete e) ∧ dispatchType s' = .next (v.complete e) ∧
      (e = .ok ∨ e = .storedSize ∨ e = .unknownType) ∧ AgreeOn rs u v := by
  have keep (c : PayloadClass) : AgreeOn rs (s.setCls c) (s'.setCls c) :=
    (hrs.setCls c).mono (List.subset_cons_self _ _)
  unfold dispatchType
  rw [← ht, ← ho, ← hn]
  rcases classify_cases s.fType s.fOsize s.fCsize with ⟨h, -⟩ | ⟨h, -⟩ | ⟨h, -⟩ | ⟨h, -⟩ <;> rw [h]
  · exact ⟨.ok, _, _, rfl, rfl, .inl rfl, keep .stored⟩
  · exact ⟨.storedSize, s, s', rfl, rfl, .inr (.inl rfl), hrs⟩
  · exact ⟨.ok, _, _, rfl, rfl, .inl rfl, keep .lz4⟩
  · exact ⟨.unknownType, s, s', rfl, rfl, .inr (.inr rfl), hrs⟩

theorem execTypechk_sameResult {a : Nat} (h : sameInputs .typechk s s') :
    SameResult .typechk a (execTypechk s) (execTypechk s') := by
  obtain ⟨e, u, v, hu, hv, -, huv⟩ := dispatchType_same ((AgreeOn.nil s s').setCls .noClass)
    (h.1 .fType (by decide)) (h.1 .fOsize (by decide)) (h.1 .fCsize (by decide))
  exact ⟨e, u, v, hu, hv, huv, nofun⟩

theorem execVdec_sameResult {a : Nat} (h : sameInputs .vdec s s') : SameResult .vdec a (execVdec s) (execVdec s') := by
  have hl : s.lz4Res = s'.lz4Res := h.1 .lz4Res (by decide)
  have ho : s.fOsize = s'.fOsize := h.1 .fOsize (by decide)
  by_cases hs : s.lz4Res = 0xFFFFFFFF#32 ∨ s.lz4Res ≠ s.fOsize
  · exact ⟨.decodedSize, s, s', execVdec_decodedSize hs, execVdec_decodedSize (hl ▸ ho ▸ hs), .nil _ _, nofun⟩
  · obtain ⟨hf, heq⟩ := not_or.1 hs
    have heq := not_not.1 heq
    exact ⟨.ok, s, s', execVdec_ok hf heq, execVdec_ok (hl ▸ hf) (hl ▸ ho ▸ heq), .nil _ _, nofun⟩

/-- GATE past its parse: from the same footer, PAY_LEN and CRC the checks go the same way. -/
theorem gateChecks_sameResult {a : Nat} (h : AgreeOn [.fOsize, .fCsize, .fCrc, .fType, .payLen, .cls] s s')
    (hcrc : srcCrc s s.payLen.toNat = srcCrc s' s'.payLen.toNat) :
    SameResult .gate a (gateChecks s) (gateChecks s') := by
  have hp : s.payLen = s'.payLen := h .payLen (by decide)
  have hn : s.fCsize = s'.fCsize := h .fCsize (by decide)
  have hk : s.fCrc = s'.fCrc := h .fCrc (by decide)
  by_cases hsize : s.payLen = s.fCsize
  · have hsize' : s'.payLen = s'.fCsize := hp ▸ hn ▸ hsize
    have hout := h.setCrcOut (srcCrc s s.payLen.toNat)
    by_cases hc : srcCrc s s.payLen.toNat = s.fCrc
    · rw [gateChecks_dispatch hsize hc, gateChecks_dispatch hsize' (hcrc ▸ hk ▸ hc), ← hcrc]
      obtain ⟨e, u, v, hu, hv, he, huv⟩ :=
        dispatchType_same hout (h .fType (by decide)) (h .fOsize (by decide)) hn
      refine ⟨e, u, v, hu, hv, huv.mono ?_, nofun⟩
      rcases he with rfl | rfl | rfl <;> decide
    · refine ⟨.checksum, _, _, gateChecks_checksum hsize hc, gateChecks_checksum hsize' (hcrc ▸ hk ▸ hc), ?_, nofun⟩
      rw [← hcrc]
      exact hout.mono (by decide)
  · exact ⟨.size, s, s', gateChecks_size hsize, gateChecks_size (hp ▸ hn ▸ hsize), h.mono (by decide), nofun⟩

theorem execGate_sameResult {a : Nat} (h : sameInputs .gate s s') : SameResult .gate a (execGate s) (execGate s') := by
  have ha : s.srcAddr = s'.srcAddr := h.1 .srcAddr (by decide)
  have hl : s.srcLen = s'.srcLen := h.1 .srcLen (by decide)
  have hb := h.srcBytes rfl
  have hp := parseFooter_eq_of_src ha hl hb
  have hcls := (AgreeOn.nil s s').setCls .noClass
  cases hf : parseFooter s.mem s.srcAddr.toNat s.srcLen.toNat with
  | error e =>
    refine ⟨e, _, _, execGate_error hf, execGate_error (hp ▸ hf), ?_, nofun⟩
    rcases parseFooter_error_code hf with rfl | rfl | rfl <;> exact hcls
  | ok f =>
    rw [execGate_parsed hf, execGate_parsed (hp ▸ hf), ← hl]
    refine gateChecks_sameResult (hcls.setFooter f _) (srcCrc_congr ha fun x h1 h2 => hb x h1 ?_)
    have hlen : (s.srcLen - 20).toNat = s.srcLen.toNat - 20 := toNat_sub_footerLen _ (parseFooter_ok_length hf)
    have h2 : x < s.srcAddr.toNat + (s.srcLen - 20).toNat := h2
    omega

theorem execSeal_sameResult (h : sameInputs .sealFooter s s') :
    SameResult .sealFooter s.dstAddr.toNat (execSeal s) (execSeal s') := by
  have ha : s.srcAddr = s'.srcAddr := h.1 .srcAddr (by decide)
  have hl : s.srcLen = s'.srcLen := h.1 .srcLen (by decide)
  have hd : s.dstAddr = s'.dstAddr := h.1 .dstAddr (by decide)
  have ho : s.fOsize = s'.fOsize := h.1 .fOsize (by decide)
  have ht : s.fType = s'.fType := h.1 .fType (by decide)
  have hsrc := src_eq_of_regs ha hl
  have hdst := dst_eq_of_reg hd
  have hcrc := srcCrc_eq_of_src ha hl (h.srcBytes rfl)
  by_cases hr : s.src.inRange ∧ s.dst.inRange
  · refine ⟨.ok, _, _, execSeal_ok hr.1 hr.2, execSeal_ok (hsrc ▸ hr.1) (hdst ▸ hr.2), ?_, fun _ _ => ?_⟩
    · rw [hcrc]
      simp [AgreeOn, writtenRegs, readReg, hl]
    · rw [hcrc, sealWith_mem, sealWith_mem, ← hd, ← ho, ← ht, ← hl]
      exact sameBytes_memWrite _ _ _ (footerBytes_length ..)
  · have hr := not_and_or.1 hr
    exact ⟨.range, s, s', execSeal_range hr, execSeal_range (hsrc ▸ hdst ▸ hr), .nil _ _, nofun⟩

/-- Every command, one lemma each. -/
theorem exec_sameResult {i : Instr} (h : sameInputs i s s') :
    SameResult i s.dstAddr.toNat (exec i s) (exec i s') := by
  cases i with
  | nop => exact ⟨.ok, s, s', rfl, rfl, .nil _ _, nofun⟩
  | parse => exact execParse_sameResult h
  | build => exact execBuild_sameResult h
  | crc => exact execCrc_sameResult h
  | vsize => exact execVsize_sameResult h
  | vcrc => exact execVcrc_sameResult h
  | typechk => exact execTypechk_sameResult h
  | vdec => exact execVdec_sameResult h
  | gate => exact execGate_sameResult h
  | sealFooter => exact execSeal_sameResult h
  | illegalAB | illegalCF | illegalZ => exact ⟨.illegal, s, s', rfl, rfl, .nil _ _, nofun⟩

end

/-- Settles O20: `exec_sameResult`, and a completion writes STATUS alone, which is in no row. -/
theorem resultsDependOnlyOnInputs : Obligations.ResultsDependOnlyOnInputs := by
  intro i s s' t t' h ht ht'
  obtain ⟨e, u, v, hu, hv, hregs, hbytes⟩ := exec_sameResult h
  obtain rfl : u.complete e = t := by injection hu.symm.trans ht
  obtain rfl : v.complete e = t' := by injection hv.symm.trans ht'
  refine ⟨rfl, fun r hr => ?_, hbytes⟩
  have hs : r ≠ .status := by
    rintro rfl
    exact absurd (writtenRegs_subset i e hr) (by decide)
  rw [readReg_complete u e hs, readReg_complete v e hs]
  exact hregs r hr

end Sys2Proof.Machine
end

section
/-! PROOF. STATUS and the registers over every step: for each field that the host sees, what each kind of step of
`step_cases` makes of it (R39 to R43, R51 to R56, R61). -/

namespace Sys2Proof.Machine

/-! ### STATUS bit by bit -/

theorem busyFlag_iff {s : State} : busyFlag s = true ↔ s.phase = .busy := by
  unfold busyFlag; cases s.phase <;> simp

theorem statusWord_busy_iff (s : State) : (statusWord s).getLsbD 0 = true ↔ s.phase = .busy := by
  rw [(statusWord_low s).1, busyFlag_iff]

/-- Every bit of STATUS (R39). Past bit 7 it is a bit that the 4-bit code does not have, so 0. -/
theorem statusWord_getLsbD (s : State) (k : Nat) : (statusWord s).getLsbD k =
    if k = 0 then busyFlag s else if k = 1 then s.done else if k = 2 then s.rej else if k = 3 then false
    else (errCode s.err).getLsbD (k - 4) := by
  obtain ⟨h0, h1, h2, h3⟩ := statusWord_low s
  match k with
  | 0 => exact h0
  | 1 => exact h1
  | 2 => exact h2
  | 3 => exact h3
  | k + 4 =>
    simp only [statusWord, BitVec.getLsbD_append]
    simpa using BitVec.lt_of_getLsbD

/-- The codes 10 to 15 are never used (R43, I19). -/
theorem errCode_le (e : ErrCode) : (errCode e).toNat ≤ 9 := by cases e <;> decide

/-- Settles O33: the bits of STATUS are `statusWord_getLsbD`, before and after a write of it (`writeStatus_eq`). -/
theorem statusRegisterLayout : Obligations.StatusRegisterLayout := by
  intro s
  obtain ⟨-, hdone, hrej, hzero⟩ := statusWord_low s
  obtain ⟨herr, hhigh⟩ := statusWord_high s
  refine ⟨statusWord_busy_iff s, hdone, hrej, hzero, herr, hhigh, by decide, fun rest v => ?_⟩
  refine ⟨_, step_wr s rest .status v, fun k => ?_⟩
  rw [statusWord_getLsbD, statusWord_getLsbD, writeReg, writeStatus_eq]
  match k with
  | 0 | 1 | 2 | 3 => simp [busyFlag]
  | k + 4 => simp

/-! ### Register writes -/

/-- While busy, CMD and the argument registers are locked (R55). -/
theorem writeReg_locked {r : Reg} {s : State} (v : Word) (hb : s.phase = .busy) (hr : r = .cmd ∨ r ∈ argumentRegs) :
    writeReg r v s = s.setRej := by
  cases r with
  | cmd | srcAddr | srcLen | dstAddr | fOsize | fCsize | fCrc | fType | lz4Res => exact ifIdle_busy hb
  | _ => exact absurd hr (by decide)

/-- A write of a read-only register is ignored (R56). -/
theorem writeReg_readOnly {r : Reg} (v : Word) (s : State) (hr : r ∈ readOnlyRegs) : writeReg r v s = s := by
  cases r with
  | magic | crcOut | payLen | cls | reserved => rfl
  | _ => exact absurd hr (by decide)

/-- A write while busy reaches IE, DONE and REJ at most, and sets no DONE (R55, R56, R57). -/
theorem writeReg_busy {s : State} (r : Reg) (v : Word) (hb : s.phase = .busy) :
    ∃ ie done rej, writeReg r v s = { s with ie := ie, done := done, rej := rej } ∧
      (s.done = false → done = false) := by
  cases r with
  | ctrl => exact ⟨v.getLsbD 0, s.done, s.rej, rfl, id⟩
  | status => exact ⟨s.ie, _, _, writeStatus_eq v s, fun hd => by rw [hd, Bool.false_and]⟩
  | magic | crcOut | payLen | cls | reserved => exact ⟨s.ie, s.done, s.rej, rfl, id⟩
  | _ => exact ⟨s.ie, s.done, true, ifIdle_busy hb, id⟩

/-- A register write keeps ERR (R43). -/
@[simp] theorem writeReg_err (r : Reg) (v : Word) (s : State) : (writeReg r v s).err = s.err := by
  obtain ⟨-, h, -⟩ := writeReg_keeps r v s
  exact h

@[simp] theorem wr_eq_wr {r q : Reg} {v w : Word} : wr r v = wr q w ↔ r = q ∧ v = w :=
  ⟨wr_injective, fun ⟨hr, hv⟩ => hr ▸ hv ▸ rfl⟩

section
variable (r : Reg) (v : Word)
@[simp] theorem wr_ne_unit : wr r v ≠ .unit := nofun
@[simp] theorem wr_ne_reset : wr r v ≠ .reset := nofun
@[simp] theorem unit_ne_wr : Event.unit ≠ wr r v := nofun
@[simp] theorem reset_ne_wr : Event.reset ≠ wr r v := nofun
@[simp] theorem memWrite_ne_wr (a : Word) (b : Byte) : Event.memWrite a b ≠ wr r v := nofun
end

/-! ### A command that stays in flight -/

/-- What no step changes while a command stays in flight (R55, R61). -/
structure KeepsInFlight (s t : State) : Prop where
  cmdword : t.cmdword = s.cmdword
  err     : t.err = s.err
  notDone : s.done = false → t.done = false
  regs    : ∀ r, r ≠ .ctrl → r ≠ .status → readReg r t = readReg r s

theorem keepsInFlight_writeReg {s : State} (r : Reg) (v : Word) (rest : List Event) (hb : s.phase = .busy) :
    KeepsInFlight s (writeReg r v (s.setAgenda rest)) := by
  obtain ⟨ie, done, rej, h, hd⟩ := writeReg_busy (s := s.setAgenda rest) r v hb
  rw [h]
  refine ⟨rfl, rfl, hd, fun q hc hs => ?_⟩
  cases q with
  | ctrl => exact absurd rfl hc
  | status => exact absurd rfl hs
  | _ => rfl

/-- Of the kinds of step only a register write, a read and a write of memory leave a command in flight. -/
theorem step_keepsInFlight {s t : State} (hb : s.phase = .busy) (h : step s = .next t) (hb' : t.phase = .busy) :
    KeepsInFlight s t := by
  rcases step_cases h with ⟨hi, -⟩ | ⟨-, -, rest, u, -, hu, rfl⟩ | ⟨r, v, rest, -, rfl⟩ |
    ⟨e, rest, es, p, d, -, -, -, -, rfl⟩ | ⟨a, b, rest, -, -, -, -, rfl⟩ | ⟨rest, -, rfl⟩
  · exact nomatch hi.symm.trans hb
  · obtain ⟨e, w, rfl, -⟩ := exec_next hu
    exact nomatch (noteCompletion_phase _ _).symm.trans hb'
  · exact keepsInFlight_writeReg r v rest hb
  · exact ⟨rfl, rfl, id, fun r _ _ => by cases r <;> rfl⟩
  · exact ⟨rfl, rfl, id, fun r _ _ => by cases r <;> rfl⟩
  · exact nomatch hb'

/-- Settles O29: `writeReg_locked`, and the lock over any step is `step_keepsInFlight`. -/
theorem busyWritesAreRejected : Obligations.BusyWritesAreRejected := by
  refine ⟨fun s rest r v hb hr => ?_, fun s t hb h hb' => ?_⟩
  · rw [step_wr, writeReg_locked (s := s.setAgenda rest) v hb hr]
    rfl
  · have hk := step_keepsInFlight hb h hb'
    exact ⟨hk.cmdword, fun r hr => hk.regs r (by rintro rfl; exact absurd hr (by decide))
      (by rintro rfl; exact absurd hr (by decide))⟩

/-- Settles O30: `step_keepsInFlight`. -/
theorem busyReadsGiveValuesFromIssue : Obligations.BusyReadsGiveValuesFromIssue := fun _ _ hb h hb' =>
  have hk := step_keepsInFlight hb h hb'
  ⟨hk.cmdword, hk.err, hk.notDone, hk.regs⟩

/-! ### What each kind of step changes -/

/-- Settles O41: a completion gives a code of its command, a reset the code 0, and no other step writes ERR. -/
theorem errChangesOnlyByCompletionOrReset : Obligations.ErrChangesOnlyByCompletionOrReset := by
  intro s t h
  refine ⟨errCode_le t.err, fun hne => ?_⟩
  rcases step_cases h with ⟨-, ⟨-, rfl⟩ | ⟨rest, -, rfl⟩⟩ | ⟨hb, -, rest, u, ha, hu, rfl⟩ | ⟨r, v, rest, -, rfl⟩ |
    ⟨e, rest, es, p, d, -, -, -, -, rfl⟩ | ⟨a, b, rest, -, -, -, -, rfl⟩ | ⟨rest, ha, rfl⟩
  · exact absurd rfl hne
  · exact absurd rfl hne
  · obtain ⟨e, w, rfl, hr⟩ := exec_next hu
    exact .inl ⟨hb, ha.imp (·.1) (⟨rest, ·⟩), noteCompletion_err _ (w.complete e) ▸ hr.code⟩
  · exact absurd (writeReg_err r v _) hne
  · exact absurd rfl hne
  · exact absurd rfl hne
  · exact .inr ⟨⟨rest, ha⟩, rfl⟩

/-- Settles O45: of the steps that are neither a completion nor a reset only a register write could, and it does not
(`writeReg_keeps`). -/
theorem resultRegistersChangeOnlyByCompletion : Obligations.ResultRegistersChangeOnlyByCompletion := by
  intro s t h hne
  rcases step_cases h with ⟨-, ⟨-, rfl⟩ | ⟨rest, -, rfl⟩⟩ | ⟨hb, -, rest, u, ha, hu, rfl⟩ | ⟨r, v, rest, -, rfl⟩ |
    ⟨e, rest, es, p, d, -, -, -, -, rfl⟩ | ⟨a, b, rest, -, -, -, -, rfl⟩ | ⟨rest, ha, rfl⟩
  · simp at hne
  · simp at hne
  · exact .inl ⟨hb, ha.imp (·.1) (⟨rest, ·⟩)⟩
  · obtain ⟨-, -, hc, hp, hk, -, -⟩ := writeReg_keeps r v (s.setAgenda rest)
    simp [hc, hp, hk] at hne
  · simp at hne
  · simp at hne
  · exact .inr ⟨rest, ha⟩

/-- Settles O43: `writeReg_phase` for a write, IDLE after a completion and a reset, and no other step
changes the phase. -/
theorem busyChangesExactlyAsListed : Obligations.BusyChangesExactlyAsListed := by
  intro s t h
  rw [show readReg .status t = statusWord t from rfl, statusWord_busy_iff, ← and_assoc]
  refine ⟨?_, Iff.rfl⟩
  rcases step_cases h with ⟨hi, ⟨ha, rfl⟩ | ⟨rest, ha, rfl⟩⟩ | ⟨hb, -, rest, u, ha, hu, rfl⟩ | ⟨r, v, rest, ha, rfl⟩ |
    ⟨e, rest, es, p, d, ha, hu, hr, hw, rfl⟩ | ⟨a, b, rest, ha, -, -, -, rfl⟩ | ⟨rest, ha, rfl⟩
  · simp [hi, ha]
  · simp [hi, ha]
  · obtain ⟨e, w, rfl, -⟩ := exec_next hu
    rcases ha with ⟨ha, -⟩ | ha <;> simp [hb, ha]
  · by_cases hc : r = .cmd <;> cases hp : s.phase <;> simp [writeReg_phase, ha, hc, hp]
  · cases hp : s.phase <;> simp [ha, hu, hr, hw]
  · cases hp : s.phase <;> simp [hp, ha]
  · simp [ha, resetStep, State.reset]

/-- Settles O44: `writeReg_done` for a write, DONE = 1 after a completion, 0 after a reset, and no other step
writes it. -/
theorem doneChangesExactlyAsListed : Obligations.DoneChangesExactlyAsListed := by
  intro s t h
  rcases step_cases h with ⟨hi, ⟨ha, rfl⟩ | ⟨rest, ha, rfl⟩⟩ | ⟨hb, -, rest, u, ha, hu, rfl⟩ | ⟨r, v, rest, ha, rfl⟩ |
    ⟨e, rest, es, p, d, ha, hu, hr, hw, rfl⟩ | ⟨a, b, rest, ha, -, -, -, rfl⟩ | ⟨rest, ha, rfl⟩
  · simp [hi, ha]
  · simp [hi, ha]
  · obtain ⟨e, w, rfl, -⟩ := exec_next hu
    rcases ha with ⟨ha, -⟩ | ha <;> simp [hb, ha]
  · by_cases hs : r = .status
    · cases hd : s.done <;> simp [writeReg_done, ha, hs, hd]
    · by_cases hc : s.phase = .idle ∧ r = .cmd <;> simp [writeReg_done, ha, hs, hc]
  · simp [ha, hu, hr, hw]
  · simp [ha]
  · simp [ha, resetStep, State.reset]

/-- Settles O42: `writeReg_rej` for a write, 0 after a reset, and no other step writes REJ; a completion keeps it
(`KeepsBut`), and a write keeps ERR. -/
theorem rejChangesExactlyAsListed : Obligations.RejChangesExactlyAsListed := by
  intro s t h
  rcases step_cases h with ⟨hi, ⟨ha, rfl⟩ | ⟨rest, ha, rfl⟩⟩ | ⟨hb, -, rest, u, ha, hu, rfl⟩ | ⟨r, v, rest, ha, rfl⟩ |
    ⟨e, rest, es, p, d, ha, -, hr, hw, rfl⟩ | ⟨a, b, rest, ha, -, -, -, rfl⟩ | ⟨rest, ha, rfl⟩
  · simp [hi, ha]
  · simp [hi, ha]
  · obtain ⟨e, w, rfl, hr⟩ := exec_next hu
    rcases ha with ⟨ha, -⟩ | ha <;> simp +contextual [ha, hr.keeps.rej]
  · by_cases hs : r = .status
    · cases hj : s.rej <;> simp [writeReg_rej, ha, hs, hj, argumentRegs]
    · by_cases hl : s.phase = .busy ∧ (r = .cmd ∨ r ∈ argumentRegs) <;> simp [writeReg_rej, ha, hs, hl]
  · simp [ha, hr, hw]
  · simp [ha]
  · simp [ha, resetStep, State.reset]

end Sys2Proof.Machine
end

section
/-! PROOF. The register window, one access at a time (R32 to R38, R54 to R59, R89, R94), the unit's turn (R60) and the
state right after reset (R63). -/

namespace Sys2Proof.Machine

/-! ### Which offsets are registers -/

/-- No register lies beyond the window (R32). -/
theorem regAt_eq_none {off : Nat} (h : 64 ≤ off) : regAt off = none :=
  Option.eq_none_iff_forall_ne_some.2 fun r hr => by
    have := regOffset_inWindow r
    rw [← regOffset_of_regAt hr] at this
    omega

theorem busAccess_outside {off : Nat} (k : Reg → State) (h : 64 ≤ off) (ha : off % 4 = 0) :
    busAccess off 4 k = .refused .outsideWindow := by
  simp [busAccess, regAt_eq_none h, ha]

/-- Sixteen offsets, sixteen registers (R33). -/
theorem exists_regOffset_eq {off : Nat} (h : off < 64) (ha : off % 4 = 0) : ∃ r, regOffset r = off := by
  have hsome : ∀ n < 64, n % 4 = 0 → (regAt n).isSome := by decide
  obtain ⟨r, hr⟩ := Option.isSome_iff_exists.1 (hsome off h ha)
  exact ⟨r, (regOffset_of_regAt hr).symm⟩

/-- Settles O38: the register table and the offsets are inverse to each other, and nothing lies beyond 0x3C. -/
theorem windowHoldsSixteenRegisters : Obligations.WindowHoldsSixteenRegisters :=
  ⟨fun _ _ h => busAddress_injective h, regAt_regOffset, fun _ h ha => exists_regOffset_eq h ha,
    fun _ _ _ _ h ha => ⟨busAccess_outside _ h ha, busAccess_outside _ h ha⟩⟩

/-- Settles O37: `busAccess_undefined`, for a read and for a write. -/
theorem undefinedAccessIsRefused : Obligations.UndefinedAccessIsRefused := fun _ _ _ _ _ h =>
  ⟨busAccess_undefined _ h, busAccess_undefined _ h⟩

/-! ### Reads -/

theorem ctrlWord_eq_ite (s : State) : ctrlWord s = if s.ie then 1 else 0 := by
  unfold ctrlWord; cases s.ie <;> rfl

/-- The three codes of CLASS are distinct (R54, R123). -/
theorem classWord_injective : Function.Injective classWord := by
  intro c d
  cases c <;> cases d <;> decide

/-- Settles O36: `eventStep_rd`, and the words of the registers that are not stored as they read. -/
theorem registerReadsReturnValues : Obligations.RegisterReadsReturnValues := by
  intro s rest r
  have hr : readReg r (s.setAgenda rest) = readReg r s := by cases r <;> rfl
  have hcls (c : PayloadClass) : readReg .cls s = classWord c ↔ s.cls = c := classWord_injective.eq_iff
  refine ⟨?_, rfl, rfl, rfl, ctrlWord_eq_ite s, hcls .noClass, hcls .stored, hcls .lz4⟩
  rw [step_setAgenda_cons, eventStep_rd, hr]
  rfl

/-! ### Writes -/

/-- Settles O31: `writeReg_readOnly`. -/
theorem readOnlyWritesAreIgnored : Obligations.ReadOnlyWritesAreIgnored := fun s rest r v hr => by
  rw [step_wr, writeReg_readOnly v _ hr]

/-- Settles O32: neither write looks at the phase. -/
theorem controlAndStatusWritesApply : Obligations.ControlAndStatusWritesApply := fun s rest v =>
  ⟨step_wr s rest .ctrl v, by rw [step_wr, writeReg, writeStatus_eq]; rfl⟩

/-- Settles O35: while idle a write to CMD is `State.issue`. -/
theorem cmdWriteIssues : Obligations.CmdWriteIssues := fun s rest w hs => by
  rw [step_wr, writeReg, ifIdle_idle (s := s.setAgenda rest) hs]
  rfl

/-- While idle an argument register takes the whole word, and nothing else changes (R34). -/
theorem writeReg_argument {r : Reg} {s : State} (v : Word) (hs : s.phase = .idle) (hr : r ∈ argumentRegs) :
    readReg r (writeReg r v s) = v ∧ (∀ q, q ≠ r → readReg q (writeReg r v s) = readReg q s) := by
  cases r with
  | srcAddr | srcLen | dstAddr | fOsize | fCsize | fCrc | fType | lz4Res =>
    simp only [writeReg, ifIdle_idle hs]
    refine ⟨rfl, fun q hq => ?_⟩
    cases q <;> first | exact absurd rfl hq | rfl
  | _ => exact absurd hr (by decide)

/-- Settles O34: `writeReg_argument`. -/
theorem idleArgumentWritesStore : Obligations.IdleArgumentWritesStore := by
  intro s rest r v hs hr
  obtain ⟨hv, hq⟩ := writeReg_argument (s := s.setAgenda rest) v hs hr
  refine ⟨_, step_wr s rest r v, hv, fun q hne => (hq q hne).trans (by cases q <;> rfl), (writeReg_keeps r v _).1, ?_,
    writeReg_agenda r v _⟩
  rw [writeReg_phase, if_neg (by rintro rfl; exact absurd hr (by decide))]
  exact hs

/-! ### The unit's turn and reset -/

theorem wordOfBits_toNat (w : Word) : wordOfBits 32 w.toNat = w := by
  rw [wordOfBits, Nat.mod_eq_of_lt w.isLt, BitVec.ofNat_toNat, BitVec.setWidth_eq]

/-- Settles O39: the unit's turn, by `unitStep_busy`, and the note written out, by `noteCompletion_eq_ite`. -/
theorem stepCompletesTheCommandInFlight : Obligations.StepCompletesTheCommandInFlight := by
  have turn {s t : State} (hb : s.phase = .busy) (hm : s.misplaced (decodeWord s.cmdword) = false)
      (h : exec (decodeWord s.cmdword) s = .next t) : unitStep s = .next (noteCompletion (decodeWord s.cmdword) t) := by
    rw [unitStep_busy hb hm, runCommand_of_next h]
  refine ⟨fun s t rest hb hm h => ⟨turn hb hm h, ?_⟩, fun s t w hm h => ?_, noteCompletion_eq_ite⟩
  · rintro rfl
    exact turn hb hm h
  · have hstep : step (s.withFetchWord 32 w.toNat) = unitStep (s.issue w) := by
      rw [State.withFetchWord, wordOfBits_toNat]
      rfl
    rw [hstep]
    exact turn rfl hm h

/-- Settles O51: register by register. -/
theorem resetValues : Obligations.ResetValues := by
  refine ⟨fun r hr => ?_, rfl, rfl, rfl, rfl, rfl, fun _ => rfl⟩
  cases r with
  | magic => exact absurd rfl hr
  | ctrl | status => decide
  | _ => rfl

end Sys2Proof.Machine
end

section
/-! PROOF. Buffer memory: what a command stores (R82, R232), the accesses of the host while a command is in flight and
outside its regions (R100 to R102), and the placement in ordinary memory (R95, I8). -/

namespace Sys2Proof.Machine

/-! ### A command's stores -/

/-- Settles O19: the store of a command lies in DST (`RunsTo.read_outside`), and there is none unless BUILD or SEAL gives
OK (`RunsTo.mem_eq`). -/
theorem commandsStoreOnlyIntoDst : Obligations.CommandsStoreOnlyIntoDst := by
  intro i s t h a ha
  obtain ⟨e, u, rfl, hr⟩ := exec_next h
  by_cases hw : writesDst i = true ∧ e = .ok
  · have hout : ¬ (s.dst.start ≤ a ∧ a < s.dst.start + s.dst.len) :=
      fun hin => ha ⟨hw.1, hw.2, Region.contains_iff.2 hin⟩
    exact hr.read_outside (by omega)
  · exact congrArg (Memory.read · a) (hr.mem_eq hw)

/-! ### The host's accesses, case by case -/

section
variable {s : State} {a : Word} (b : Byte)

theorem hostMemRead_dstBusy (hd : s.dstBusy a.toNat = true) : hostMemRead a s =
    .next { s.setReply (.byte (Config.drawnByte s.draws)) with draws := s.draws + 1 } := by
  rw [hostMemRead, if_pos hd]

theorem hostMemRead_nonOrdinary (hd : s.dstBusy a.toNat = false) (hn : s.nonOrdinary a.toNat = true) :
    hostMemRead a s = .refused .nonOrdinaryMemory := by
  simp [hostMemRead, hd, hn]

theorem hostMemRead_ordinary (hd : s.dstBusy a.toNat = false) (hn : s.nonOrdinary a.toNat = false) :
    hostMemRead a s = .next (s.setReply (.byte (Memory.read s.mem a.toNat))) := by
  simp [hostMemRead, hd, hn]

theorem hostMemWrite_srcBusy (hs : s.srcBusy a.toNat = true) : hostMemWrite a b s = .fault .srcWrittenWhileBusy := by
  rw [hostMemWrite, if_pos hs]

theorem hostMemWrite_dstBusy (hs : s.srcBusy a.toNat = false) (hd : s.dstBusy a.toNat = true) :
    hostMemWrite a b s = .fault .dstWrittenWhileBusy := by
  simp [hostMemWrite, hs, hd]

theorem hostMemWrite_nonOrdinary (hs : s.srcBusy a.toNat = false) (hd : s.dstBusy a.toNat = false)
    (hn : s.nonOrdinary a.toNat = true) : hostMemWrite a b s = .refused .nonOrdinaryMemory := by
  simp [hostMemWrite, hs, hd, hn]

theorem hostMemWrite_ordinary (hs : s.srcBusy a.toNat = false) (hd : s.dstBusy a.toNat = false)
    (hn : s.nonOrdinary a.toNat = false) :
    hostMemWrite a b s = .next ((s.setMem (Memory.write s.mem a.toNat b)).noteWritten ⟨a.toNat, 1⟩) := by
  simp [hostMemWrite, hs, hd, hn]

end

/-- Settles O47: `hostMemWrite_srcBusy`. -/
theorem srcWriteWhileBusyFaults : Obligations.SrcWriteWhileBusyFaults := fun _ _ _ b hb hr h1 h2 =>
  hostMemWrite_srcBusy b ((srcBusy_iff hb).2 ⟨hr, h1, h2⟩)

/-- Settles O48: a byte of DST reads as a draw, and which of the two faults a write is depends on SRC alone. -/
theorem dstAccessWhileBusy : Obligations.DstAccessWhileBusy := by
  intro s rest a b hb hw h1 h2
  have hd : (s.setAgenda rest).dstBusy a.toNat = true := (dstBusy_iff hb).2 ⟨hw, h1, h2⟩
  refine ⟨⟨_, hostMemRead_dstBusy hd⟩, fun hsrc => ?_, srcWriteWhileBusyFaults s rest a b hb⟩
  have hs : s.srcBusy a.toNat = false := by
    rw [Bool.eq_false_iff, Ne, srcBusy_iff hb]
    rintro ⟨hr, hin⟩
    exact hsrc.elim (by simp [hr]) (· hin)
  exact hostMemWrite_dstBusy b hs hd

/-- Settles O49: `hostMemRead_ordinary`, `hostMemWrite_ordinary`, and the write of one byte of memory. -/
theorem hostMemoryAccess : Obligations.HostMemoryAccess := by
  intro s rest a b hn
  refine ⟨fun hd => hostMemRead_ordinary (s := s.setAgenda rest) hd hn, fun hs hd => ?_⟩
  refine ⟨_, hostMemWrite_ordinary (s := s.setAgenda rest) b hs hd hn, Memory.read_write_same .., fun x hx => ?_,
    fun r => by cases r <;> rfl, rfl, rfl, rfl⟩
  exact Memory.read_write_ne (by omega)

/-! ### Placement -/

/-- The completion of a command in ordinary memory goes on, since every command completes (R60). -/
theorem unitStep_goesOn {s : State} (hb : s.phase = .busy) (hm : s.misplaced (decodeWord s.cmdword) = false) :
    ∃ t, unitStep s = .next t := by
  obtain ⟨e, u, hu, -⟩ := exec_completes (decodeWord s.cmdword) s
  exact ⟨_, (unitStep_busy hb hm).trans (runCommand_of_next hu)⟩

/-- No step changes the platform (MEM_KIND). -/
theorem step_memKind {s t : State} (h : step s = .next t) : t.memKind = s.memKind := by
  rcases step_cases h with ⟨-, ⟨-, rfl⟩ | ⟨rest, -, rfl⟩⟩ | ⟨-, -, rest, u, -, hu, rfl⟩ | ⟨r, v, rest, -, rfl⟩ |
    ⟨e, rest, es, p, d, -, -, -, -, rfl⟩ | ⟨a, b, rest, -, -, -, -, rfl⟩ | ⟨rest, -, rfl⟩
  · rfl
  · rfl
  · obtain ⟨e, w, rfl, hr⟩ := exec_next hu
    rw [noteCompletion_eq]
    exact hr.keeps.memKind
  · obtain ⟨-, -, -, -, -, -, hk⟩ := writeReg_keeps r v (s.setAgenda rest)
    exact hk
  · rfl
  · rfl
  · rfl

/-- Settles O59: a command is misplaced exactly when it accesses a byte that is not ordinary (`State.misplaced_iff`), and
then only its completion is refused. -/
theorem nonOrdinaryPlacementIsRefused : Obligations.NonOrdinaryPlacementIsRefused := by
  refine ⟨fun s rest hb => ⟨fun hx => ?_, fun hx => ?_⟩, fun s rest a b hn hd => ?_, fun _ _ => step_memKind⟩
  · have hm : s.misplaced (decodeWord s.cmdword) = true := State.misplaced_iff.2 hx
    exact ⟨unitStep_misplaced (s := s.setAgenda rest) hb hm, unitStep_misplaced (s := s.setAgenda []) hb hm⟩
  · have hm : s.misplaced (decodeWord s.cmdword) = false := by
      rw [Bool.eq_false_iff, Ne, State.misplaced_iff]
      rintro ⟨x, hn, ha⟩
      exact hx x hn ha
    exact ⟨unitStep_goesOn (s := s.setAgenda rest) hb hm, unitStep_goesOn (s := s.setAgenda []) hb hm⟩
  · exact ⟨hostMemRead_nonOrdinary (s := s.setAgenda rest) hd hn,
      fun hs => hostMemWrite_nonOrdinary (s := s.setAgenda rest) b hs hd hn⟩

end Sys2Proof.Machine
end

section
/-! PROOF. Commands and their words: a word is its reserved bits over its OP field, and what the decoder makes of each
(R110 to R114); the reserved words as commands (R114, R211); `wait` (R127). -/

namespace Sys2Proof.Machine

/-! ### The reserved bits over the OP field -/

theorem reservedBits_append_opField (w : Word) : w.extractLsb' 4 28 ++ w.extractLsb' 0 4 = w :=
  (BitVec.extractLsb'_append_extractLsb'_eq_extractLsb' rfl).trans BitVec.extractLsb'_eq_self

/-- Nonzero reserved bits make a word illegal, and the decoder keeps them and the OP field (R111). -/
theorem decodeWord_append_of_ne_zero {z : BitVec 28} (hz : z ≠ 0) (op : BitVec 4) :
    decodeWord (z ++ op) = .illegalZ z op := by
  rw [decodeWord, BitVec.extractLsb'_append_eq_left, BitVec.extractLsb'_append_eq_right, if_pos hz]

/-- With the reserved bits 0 the opcode map reads the OP field (R113). -/
theorem decodeWord_zero_append (op : BitVec 4) : decodeWord ((0 : BitVec 28) ++ op) = opmap op := by
  have hz : ¬ (0 : BitVec 28) ≠ 0 := not_not.2 rfl
  rw [decodeWord, BitVec.extractLsb'_append_eq_left, BitVec.extractLsb'_append_eq_right, if_neg hz]

/-! ### The opcode map, for all sixteen opcodes -/

theorem opmap_wf (op : BitVec 4) : (opmap op).wf = true := by
  revert op; decide

theorem encode_opmap (op : BitVec 4) : encode (opmap op) = (0 : BitVec 28) ++ op := by
  revert op; decide

/-- The opcodes 0xA to 0xF are reserved (R114). -/
theorem opmap_reserved {op : BitVec 4} (h : 10 ≤ op.toNat) :
    (∃ o, opmap op = .illegalAB o) ∨ ∃ o, opmap op = .illegalCF o := by
  revert op; decide

/-! ### Decoding and encoding -/

/-- Settles O1: the words with nonzero reserved bits by `decodeWord_append_of_ne_zero`; the other rows leave at most two
bits free, and the opcode map reads them back. -/
theorem decodeOfEncodeIsIdentity : Obligations.DecodeOfEncodeIsIdentity := by
  intro i hi
  cases i with
  | illegalZ z op => exact decodeWord_append_of_ne_zero (by simpa [Instr.wf] using hi) op
  | illegalAB o => revert o; decide
  | illegalCF o => revert o; decide
  | _ => rfl

/-- Settles O2: a word is its reserved bits over its OP field, and the decoder keeps both, or reads the second by the
opcode map when the first are 0 (`encode_opmap`). -/
theorem encodeOfDecodeIsIdentity : Obligations.EncodeOfDecodeIsIdentity := by
  intro w
  rw [← reservedBits_append_opField w]
  generalize w.extractLsb' 4 28 = z, w.extractLsb' 0 4 = op
  by_cases hz : z = 0
  · rw [hz, decodeWord_zero_append]
    exact ⟨opmap_wf op, encode_opmap op⟩
  · rw [decodeWord_append_of_ne_zero hz]
    exact ⟨by simpa [Instr.wf] using hz, rfl⟩

/-- Settles O3: each word is evaluated. -/
theorem listedWordsDecode : Obligations.ListedWordsDecode := by
  unfold Obligations.ListedWordsDecode
  decide

/-! ### The reserved words -/

/-- A word with nonzero reserved bits or a reserved opcode reads as one of the three illegal commands (R114). -/
theorem decodeWord_reserved {w : Word} (h : w.extractLsb' 4 28 ≠ 0 ∨ 10 ≤ w.toNat) :
    (∃ o, decodeWord w = .illegalAB o) ∨ (∃ o, decodeWord w = .illegalCF o) ∨
      ∃ z op, decodeWord w = .illegalZ z op := by
  rw [← reservedBits_append_opField w] at h ⊢
  rw [BitVec.extractLsb'_append_eq_left] at h
  generalize w.extractLsb' 4 28 = z, w.extractLsb' 0 4 = op at h ⊢
  by_cases hz : z = 0
  · subst hz
    have hop : 10 ≤ op.toNat := by
      have h10 := h.resolve_left (not_not.2 rfl)
      rw [BitVec.toNat_append] at h10
      simpa using h10
    rw [decodeWord_zero_append]
    exact (opmap_reserved hop).imp_right .inl
  · exact .inr (.inr ⟨z, op, decodeWord_append_of_ne_zero hz op⟩)

/-- STATUS after a completion, if no write was rejected: the code and DONE, every other bit 0 (R39). -/
theorem statusWord_complete {s : State} (e : ErrCode) (h : s.rej = false) :
    statusWord (s.complete e) = 0#24 ++ errCode e ++ 0b0010#4 := by
  simp only [statusWord, busyFlag, State.complete_err, State.complete_rej, State.complete_done, State.complete_phase, h]
  generalize errCode e = c
  revert c; decide

/-- Settles O4: each of the commands of `decodeWord_reserved` raises ILLEGAL, and STATUS is `statusWord_complete`. -/
theorem reservedWordsCompleteWithIllegal : Obligations.ReservedWordsCompleteWithIllegal := by
  intro w s h
  refine ⟨s.complete .illegal, ?_, rfl, statusWord_complete .illegal⟩
  rcases decodeWord_reserved h with ⟨o, hd⟩ | ⟨o, hd⟩ | ⟨z, op, hd⟩ <;> rw [hd] <;> rfl

/-! ### `wait` -/

section
variable {s : State}

/-- A poll that reads BUSY = 0 is the last. -/
theorem hostWait_idle (h : s.phase = .idle) : hostWait s = .next (s.setReply (.reg (statusWord s))) := by
  rw [hostWait, busyFlag, h]
  rfl

/-- After a poll that reads BUSY = 1 come the unit's turn and another poll. -/
theorem hostWait_busy (h : s.phase = .busy) :
    hostWait s = .next ((s.setReply (.reg (statusWord s))).setAgenda (.unit :: .wait :: s.agenda)) := by
  rw [hostWait, busyFlag, h]
  rfl

end

/-- Settles O53: `hostWait_idle` and `hostWait_busy`, with the poll taken off the agenda. -/
theorem waitPollsUntilIdle : Obligations.WaitPollsUntilIdle := fun s rest =>
  ⟨fun h => hostWait_idle (s := s.setAgenda rest) h, fun h => hostWait_busy (s := s.setAgenda rest) h⟩

end Sys2Proof.Machine
end

section
/-! PROOF. The footer codec (R140, R143, R145): PARSE and BUILD outcome by outcome, and the two round trips, which meet in
the 20 bytes of the footer. -/

namespace Sys2Proof.Machine

/-! ### PARSE -/

/-- A PARSE that finds the magic at the end of a long enough SRC reads the footer in front of it (R140). -/
theorem execParse_footer {s : State} (hr : s.src.inRange) (h20 : 20 ≤ s.srcLen.toNat)
    (hm : memRead s.mem (s.srcAddr.toNat + s.srcLen.toNat - 4) 4 = magicBytes) :
    execParse s = .next ((s.setFooter (footerAt s.mem (s.srcAddr.toNat + s.srcLen.toNat - 20))
      (BitVec.ofNat 32 (s.srcLen.toNat - 20))).complete .ok) := by
  rw [execParse_ok (parseFooter_ok hr hm h20), ofNat_sub_footerLen _ h20]

/-- What PARSE has seen of its region when it reports OK, and where it leaves the footer. -/
theorem execParse_passed {s t : State} (h : execParse s = .next t) (he : t.err = .ok) :
    20 ≤ s.srcLen.toNat ∧ memRead s.mem (s.srcAddr.toNat + s.srcLen.toNat - 4) 4 = magicBytes ∧
      t = (s.setFooter (footerAt s.mem (s.srcAddr.toNat + s.srcLen.toNat - 20)) (s.srcLen - 20)).complete .ok := by
  rcases parseFooter_cases s.mem s.srcAddr.toNat s.srcLen.toNat with ⟨hp, -⟩ | ⟨hp, -⟩ | ⟨hp, -⟩ | ⟨hp, -, h20, hm⟩
  · cases h.symm.trans (execParse_error hp); cases he
  · cases h.symm.trans (execParse_error hp); cases he
  · cases h.symm.trans (execParse_error hp); cases he
  · cases h.symm.trans (execParse_ok hp)
    exact ⟨h20, hm, rfl⟩

/-- Settles O7: the checks of `parseFooter` in their order, with the magic and the words as formulas over single bytes. -/
theorem parseResult : Obligations.ParseResult := by
  refine ⟨by decide, ?_⟩
  rintro s _ _ rfl rfl
  have magic := magicAt_iff s.mem (s.srcAddr.toNat + s.srcLen.toNat - 4)
  refine ⟨fun h => execParse_error (parseFooter_range (not_le.2 h)),
    fun hr h4 => execParse_error (parseFooter_tooShortForMagic hr h4),
    fun hr h4 hm => execParse_error (parseFooter_badMagic hr h4 (mt magic.2 hm)),
    fun hr h4 hm h20 => execParse_error (parseFooter_short hr h4 (magic.1 hm) h20), fun hr h20 hm => ?_⟩
  have fields : footerAt s.mem (s.srcAddr.toNat + s.srcLen.toNat - 20) =
      ⟨wordAt s.mem (s.srcAddr.toNat + s.srcLen.toNat - 20), wordAt s.mem (s.srcAddr.toNat + s.srcLen.toNat - 16),
        wordAt s.mem (s.srcAddr.toNat + s.srcLen.toNat - 12), wordAt s.mem (s.srcAddr.toNat + s.srcLen.toNat - 8)⟩ := by
    rw [footerAt_eq_words]
    congr 2 <;> omega
  rw [exec, execParse_footer hr h20 (magic.1 hm), fields]
  rfl

/-! ### BUILD -/

/-- Settles O8: in range BUILD is one write of the footer's 20 bytes (`execBuild_ok`). -/
theorem buildResult : Obligations.BuildResult := by
  refine ⟨by decide, ?_⟩
  rintro s _ rfl
  exact ⟨fun h => execBuild_range (not_le.2 h), fun h => ⟨_, execBuild_ok h, footerIsAt_memWrite .., fun _ hx =>
    read_memWrite_outside hx⟩⟩

/-! ### Round trips -/

/-- After a BUILD in range, DST holds the bytes of the footer of its four registers (R144). -/
theorem execBuild_dstBytes {s t : State} (hd : s.dst.inRange) (h : execBuild s = .next t) (i : Nat) (hi : i < 20) :
    Memory.read t.mem (s.dstAddr.toNat + i) = (footerBytes s.fOsize s.fCsize s.fCrc s.fType)[i] := by
  cases h.symm.trans (execBuild_ok hd)
  rw [State.complete_mem, State.setMem_mem]
  exact read_memWrite_inside i (by simpa using hi)

/-- Settles O22: SRC ends where DST does, so PARSE finds the magic and the fields in the bytes of `execBuild_dstBytes`. -/
theorem buildThenParseRestoresFields : Obligations.BuildThenParseRestoresFields := by
  intro s t u p hd h same hp ha hl
  have bytes : ∀ i, (hi : i < 20) →
      Memory.read u.mem (s.dstAddr.toNat + i) = (footerBytes s.fOsize s.fCsize s.fCrc s.fType)[i] := fun i hi =>
    (same _ (by omega) (by omega)).trans (execBuild_dstBytes hd h i hi)
  have hend : u.srcAddr.toNat + u.srcLen.toNat = s.dstAddr.toNat + 20 := by omega
  have parsed := execParse_footer (s := u) (hend.trans_le hd) (by omega) (by rw [hend]; exact magic_of_bytes bytes)
  rw [hend, Nat.add_sub_cancel, hl, Nat.add_sub_cancel, footerAt_of_bytes bytes] at parsed
  exact parsed

/-- Settles O23: the 20 bytes PARSE read are the footer of the fields it left (`footerBytes_of_footerAt`), and those are
the bytes BUILD writes. -/
theorem parseThenBuildRewritesFooter : Obligations.ParseThenBuildRewritesFooter := by
  intro s t u h he ho hc hk ht hd
  obtain ⟨h20, hm, rfl⟩ := execParse_passed h he
  refine ⟨_, execBuild_ok hd, rfl, fun i hi => ?_⟩
  have footer : footerBytes u.fOsize u.fCsize u.fCrc u.fType =
      memRead s.mem (s.srcAddr.toNat + s.srcLen.toNat - 20) 20 := by
    rw [ho, hc, hk, ht]
    refine footerBytes_of_footerAt ?_
    rwa [show s.srcAddr.toNat + s.srcLen.toNat - 20 + 16 = s.srcAddr.toNat + s.srcLen.toNat - 4 by omega]
  simpa only [footer, memRead_getElem] using execBuild_dstBytes hd (execBuild_ok hd) i hi

end Sys2Proof.Machine
end

section
/-! PROOF. The integrity commands (R162, R163, R164) and what the CRC32 detects (R161): a byte that changed, and so one
flipped bit, and so one flipped bit of the payload at GATE (V5). -/

namespace Sys2Proof.Machine

/-! ### CRC, VSIZE and VCRC -/

/-- Settles O9: `execCrc_range` and `execCrc_ok`. -/
theorem crcResult : Obligations.CrcResult := by
  refine ⟨by decide, ?_⟩
  rintro s _ _ rfl rfl
  exact ⟨fun h => execCrc_range (not_le.2 h), fun h => execCrc_ok h⟩

/-- Settles O10: `execVsize_ok` and `execVsize_size`. -/
theorem vsizeResult : Obligations.VsizeResult :=
  ⟨by decide, fun _ => ⟨execVsize_ok, execVsize_size⟩⟩

/-- Settles O11: `execVcrc_range`, and in range the two outcomes of the comparison with F_CRC. -/
theorem vcrcResult : Obligations.VcrcResult := by
  refine ⟨by decide, ?_⟩
  rintro s _ _ _ rfl rfl rfl
  exact ⟨fun h => execVcrc_range (not_le.2 h), fun h => execVcrc_ok h, fun h => execVcrc_checksum h⟩

/-! ### What the CRC32 detects -/

/-- Settles O27: each sequence is evaluated. -/
theorem crcKnownValues : Obligations.CrcKnownValues := by
  unfold Obligations.CrcKnownValues; decide +kernel

/-- The registers differ after the byte that differs (`crcByte_ne`), and the bytes behind it keep them apart
(`crcFold_injective`). -/
theorem crc32_ne_of_byte_ne (xs ys : List Byte) {a b : Byte} (h : a ≠ b) :
    crc32 (xs ++ a :: ys) ≠ crc32 (xs ++ b :: ys) := by
  intro hc
  have registers := (BitVec.xor_left_inj _).1 hc
  rw [crcFold_append, crcFold_append] at registers
  exact crcByte_ne crcIsoHdlc_topBit h (crcFold_injective crcIsoHdlc_topBit ys registers)

theorem ne_flipBit (b : Byte) {k : Nat} (hk : k < 8) : b ≠ b ^^^ (1#8 <<< k) := by
  intro h
  have := congrArg (BitVec.getLsbD · k) h
  simp [hk] at this

/-- Settles O25: a byte with one bit flipped is another byte, and `crc32_ne_of_byte_ne`. -/
theorem oneFlippedBitChangesTheCrc : Obligations.OneFlippedBitChangesTheCrc := fun xs ys b _ hk =>
  crc32_ne_of_byte_ne xs ys (ne_flipBit b hk)

/-- Two memories that differ in one byte of a region have different CRC32s over it. -/
theorem crc32_memRead_ne {m m' : Memory} {a n x : Nat} (h1 : a ≤ x) (h2 : x < a + n)
    (hx : Memory.read m' x ≠ Memory.read m x)
    (same : ∀ y, a ≤ y → y < a + n → y ≠ x → Memory.read m' y = Memory.read m y) :
    crc32 (memRead m' a n) ≠ crc32 (memRead m a n) := by
  have before : memRead m' a (x - a) = memRead m a (x - a) :=
    memRead_congr fun y _ _ => same y (by omega) (by omega) (by omega)
  have behind : memRead m' (x + 1) (a + n - (x + 1)) = memRead m (x + 1) (a + n - (x + 1)) :=
    memRead_congr fun y _ _ => same y (by omega) (by omega) (by omega)
  rw [memRead_split h1 h2, memRead_split h1 h2, before, behind]
  exact crc32_ne_of_byte_ne _ _ hx

/-! ### GATE on a payload that changed -/

/-- A container with a footer of its own payload's length, whose checksum is not that of the payload: GATE ends at its
checksum step, with CLASS = NONE and both checksums in the registers (R182 step 4). -/
theorem execGate_checksum {s : State} (hr : s.src.inRange) (h20 : 20 ≤ s.srcLen.toNat)
    (hm : memRead s.mem (s.srcAddr.toNat + s.srcLen.toNat - 4) 4 = magicBytes) {f : Footer}
    (hf : footerAt s.mem (s.srcAddr.toNat + s.srcLen.toNat - 20) = f) (hsize : f.csize = s.srcLen - 20)
    (hc : srcCrc s (s.srcLen.toNat - 20) ≠ f.crc) :
    execGate s = .next ((((s.setCls .noClass).setFooter f (s.srcLen - 20)).setCrcOut
      (srcCrc s (s.srcLen.toNat - 20))).complete .checksum) := by
  rw [← toNat_sub_footerLen _ h20] at hc ⊢
  rw [execGate_parsed (parseFooter_ok hr hm h20), hf]
  exact gateChecks_checksum hsize.symm hc

/-- Settles O26: the flip lies in front of the footer, so GATE finds the footer it found before (`execGate_passed`), with the
CRC32 of another payload (`crc32_memRead_ne`). -/
theorem flippedPayloadBitFailsTheGate : Obligations.FlippedPayloadBitFailsTheGate := by
  intro s t u x k h he ha hl h1 h2 hk hx same
  have passed := execGate_passed h he
  rw [← ha, ← hl] at passed same h2
  rw [← ha] at h1
  obtain ⟨hr, h20, hm, hsize, hcrc, ht, -⟩ := passed
  have magic : memRead u.mem (u.srcAddr.toNat + u.srcLen.toNat - 4) 4 = magicBytes := by
    rw [← hm]
    exact memRead_congr fun y _ _ => same y (by omega) (by omega) (by omega)
  have footer : footerAt u.mem (u.srcAddr.toNat + u.srcLen.toNat - 20) =
      footerAt s.mem (u.srcAddr.toNat + u.srcLen.toNat - 20) :=
    footerAt_congr fun i _ => same _ (by omega) (by omega) (by omega)
  have payload : srcCrc u (u.srcLen.toNat - 20) ≠ (footerAt s.mem (u.srcAddr.toNat + u.srcLen.toNat - 20)).crc := by
    rw [hcrc, srcCrc]
    exact crc32_memRead_ne h1 h2 (hx ▸ (ne_flipBit _ hk).symm) fun y _ _ => same y (by omega) (by omega)
  exact ⟨_, execGate_checksum hr h20 magic footer hsize payload, rfl, rfl, ht.symm, payload⟩

end Sys2Proof.Machine
end

section
/-! PROOF. The decoder commands TYPECHK, VDEC and GATE outcome by outcome (R180, R181, R182), GATE as a sequence of the
commands before it (R183), and the host's use of a payload that a passing GATE covers (R184, R185, R269). -/

namespace Sys2Proof.Machine

/-! ### TYPECHK and VDEC -/

section
variable {s : State}

theorem dispatchType_of_ok {c : PayloadClass} (h : classify s.fType s.fOsize s.fCsize = .ok c) :
    dispatchType s = .next ((s.setCls c).complete .ok) := by rw [dispatchType, h]; rfl

theorem dispatchType_of_error {e : ErrCode} (h : classify s.fType s.fOsize s.fCsize = .error e) :
    dispatchType s = .next (s.complete e) := by rw [dispatchType, h]; rfl

theorem dispatchType_stored (ht : s.fType = 0) (hs : s.fOsize = s.fCsize) :
    dispatchType s = .next ((s.setCls .stored).complete .ok) :=
  dispatchType_of_ok (ht ▸ classify_stored hs)

theorem dispatchType_storedSize (ht : s.fType = 0) (hs : s.fOsize ≠ s.fCsize) :
    dispatchType s = .next (s.complete .storedSize) :=
  dispatchType_of_error (ht ▸ classify_storedSize hs)

theorem dispatchType_lz4 (ht : s.fType = 1 ∨ s.fType = 2) :
    dispatchType s = .next ((s.setCls .lz4).complete .ok) :=
  dispatchType_of_ok (classify_lz4 ht)

theorem dispatchType_unknown (ht : 2 < s.fType.toNat) : dispatchType s = .next (s.complete .unknownType) :=
  have ⟨h0, h1, h2⟩ := type_of_two_lt ht
  dispatchType_of_error (classify_unknown h0 h1 h2)

end

/-- Settles O12: TYPECHK is the type dispatch from CLASS = NONE, and each outcome is a lemma of `dispatchType`. -/
theorem typechkResult : Obligations.TypechkResult :=
  ⟨by decide, fun s =>
    ⟨dispatchType_stored (s := s.setCls .noClass), dispatchType_storedSize (s := s.setCls .noClass),
      dispatchType_lz4 (s := s.setCls .noClass), dispatchType_unknown (s := s.setCls .noClass)⟩⟩

/-- The word by which the LZ4 decoder signals a failure (R125), as a number. -/
theorem eq_failureSignal_iff (w : Word) : w = 0xFFFFFFFF#32 ↔ w.toNat = 2 ^ 32 - 1 := BitVec.toNat_inj.symm

/-- Settles O13: `execVdec_ok` and `execVdec_decodedSize`, with the failure signal as a number. -/
theorem vdecResult : Obligations.VdecResult :=
  ⟨by decide, fun s => ⟨fun hlt => execVdec_ok (mt (eq_failureSignal_iff _).1 hlt.ne),
    fun h => execVdec_decodedSize (h.imp_left (eq_failureSignal_iff _).2)⟩⟩

/-! ### GATE, outcome by outcome -/

/-- The fields of a footer by their distance from the end of the container (R116). -/
theorem footerAt_before_end (m : Memory) {e : Nat} (h : 20 ≤ e) : footerAt m (e - 20) =
    ⟨wordAt m (e - 20), wordAt m (e - 16), wordAt m (e - 12), wordAt m (e - 8)⟩ := by
  rw [footerAt_eq_words]
  congr 2 <;> omega

/-- Settles O14: the checks of `parseFooter` in their order, and past them those of `gateChecks` on the state `p` that the
parse leaves, the last of which is `dispatchType`. -/
theorem gateResult : Obligations.GateResult := by
  refine ⟨by decide, ?_⟩
  rintro s _ _ rfl rfl
  have magic := magicAt_iff s.mem (s.srcAddr.toNat + s.srcLen.toNat - 4)
  refine ⟨fun h => execGate_error (parseFooter_range (not_le.2 h)),
    fun hr h4 => execGate_error (parseFooter_tooShortForMagic hr h4),
    fun hr h4 hm => execGate_error (parseFooter_badMagic hr h4 (mt magic.2 hm)),
    fun hr h4 hm h20 => execGate_error (parseFooter_short hr h4 (magic.1 hm) h20), ?_⟩
  intro p c hr h20 hm hp hc
  have parsed : exec .gate s = gateChecks p := by
    rw [exec, execGate_parsed (parseFooter_ok hr (magic.1 hm) h20), footerAt_before_end _ (by omega), hp,
      ofNat_sub_footerLen _ h20]
    rfl
  have len : p.payLen.toNat = s.srcLen.toNat - 20 := by
    rw [hp, ofNat_sub_footerLen _ h20, toNat_sub_footerLen _ h20]
  have size : s.srcLen.toNat - 20 = p.fCsize.toNat ↔ p.payLen = p.fCsize := by rw [← len, BitVec.toNat_inj]
  have crc : srcCrc p p.payLen.toNat = c := by rw [len, hc, hp, srcCrc]
  have passed (hs : s.srcLen.toNat - 20 = p.fCsize.toNat) (hk : c = p.fCrc) :
      exec .gate s = dispatchType (p.setCrcOut c) := by
    rw [parsed, gateChecks_dispatch (size.1 hs) (crc.trans hk), crc]
  refine ⟨fun hs => ?_, fun hs hk => ?_, fun hs hk ht ho => ?_, fun hs hk ht ho => ?_, fun hs hk ht => ?_,
    fun hs hk ht => ?_⟩
  · rw [parsed, gateChecks_size (mt size.2 hs)]
  · rw [parsed, gateChecks_checksum (size.1 hs) (crc ▸ hk), crc]
    rfl
  · exact (passed hs hk).trans (dispatchType_storedSize ht ho)
  · exact (passed hs hk).trans (dispatchType_stored ht ho)
  · exact (passed hs hk).trans (dispatchType_lz4 ht)
  · exact (passed hs hk).trans (dispatchType_unknown ht)

/-! ### GATE as a sequence of commands -/

section
variable (t : State) (k : State → Host.Outcome State Fault Refusal)

theorem thenIfOk_ok : thenIfOk (.next (t.complete .ok)) k = k (t.complete .ok) := rfl

theorem thenIfOk_error {e : ErrCode} (he : e ≠ .ok) : thenIfOk (.next (t.complete e)) k = .next (t.complete e) :=
  if_neg he

end

/-- A parse that fails ends the sequence and GATE alike, with CLASS = NONE. -/
theorem execGate_eq_sequence_of_error {s : State} {e : ErrCode} (he : e ≠ .ok)
    (h : parseFooter s.mem s.srcAddr.toNat s.srcLen.toNat = .error e) :
    execGate s = restoreSrcLen s.srcLen (gateSequence s) := by
  rw [execGate_error h, gateSequence, exec, execParse_error (s := s.setCls .noClass) h, thenIfOk_error _ _ he]
  rfl

/-- Where the sequence goes on from the state the parse leaves: SRC is the payload (R183). -/
def State.withPayloadAsSrc (p : State) : State := (p.complete .ok).setSrcLen p.payLen

/-- From CLASS = NONE, TYPECHK is the type step of GATE; it reads no SRC_LEN. -/
theorem dispatchType_eq_typechk {p : State} (n : Word) (hcls : p.cls = .noClass) :
    dispatchType p = restoreSrcLen p.srcLen (exec .typechk ((p.setSrcLen n).complete .ok)) := by
  have typechk : exec .typechk ((p.setSrcLen n).complete .ok) =
      dispatchType (((p.setSrcLen n).complete .ok).setCls p.cls) := by rw [hcls]; rfl
  rw [typechk]
  cases h : classify p.fType p.fOsize p.fCsize with
  | ok c =>
    rw [dispatchType_of_ok h, dispatchType_of_ok (s := ((p.setSrcLen n).complete .ok).setCls p.cls) h]
    rfl
  | error e =>
    rw [dispatchType_of_error h, dispatchType_of_error (s := ((p.setSrcLen n).complete .ok).setCls p.cls) h]
    rfl

/-- VSIZE, VCRC and TYPECHK on the payload are the checks of GATE past its parse. -/
theorem gateChecks_eq_sequence {p : State} (hr : inRange p.srcAddr.toNat p.payLen.toNat) (hcls : p.cls = .noClass) :
    gateChecks p = restoreSrcLen p.srcLen
      (thenIfOk (exec .vsize p.withPayloadAsSrc) fun q => thenIfOk (exec .vcrc q) fun r => exec .typechk r) := by
  by_cases hs : p.payLen = p.fCsize
  · have vsize : exec .vsize p.withPayloadAsSrc = _ := execVsize_ok hs
    rw [vsize, thenIfOk_ok]
    by_cases hc : srcCrc p p.payLen.toNat = p.fCrc
    · have vcrc : exec .vcrc (p.withPayloadAsSrc.complete .ok) = _ := execVcrc_ok hr hc
      rw [gateChecks_dispatch hs hc, vcrc, thenIfOk_ok]
      exact dispatchType_eq_typechk (p := p.setCrcOut _) p.payLen hcls
    · have vcrc : exec .vcrc (p.withPayloadAsSrc.complete .ok) = _ := execVcrc_checksum hr hc
      rw [gateChecks_checksum hs hc, vcrc, thenIfOk_error _ _ (by decide)]
      rfl
  · have vsize : exec .vsize p.withPayloadAsSrc = _ := execVsize_size hs
    rw [gateChecks_size hs, vsize, thenIfOk_error _ _ (by decide)]
    rfl

/-- Settles O21: a parse that fails ends both alike, and one that succeeds leaves the rest to `gateChecks_eq_sequence`; the
payload is in range since its container is. -/
theorem gateEqualsItsParts : Obligations.GateEqualsItsParts := by
  intro s
  rcases parseFooter_cases s.mem s.srcAddr.toNat s.srcLen.toNat with
    ⟨hp, -⟩ | ⟨hp, -⟩ | ⟨hp, -⟩ | ⟨hp, hr, h20, -⟩
  · exact execGate_eq_sequence_of_error (by decide) hp
  · exact execGate_eq_sequence_of_error (by decide) hp
  · exact execGate_eq_sequence_of_error (by decide) hp
  · have payload : inRange s.srcAddr.toNat (s.srcLen - 20).toNat := by rw [toNat_sub_footerLen _ h20]; omega
    have parsed : exec .parse (s.setCls .noClass) = _ := execParse_ok (s := s.setCls .noClass) hp
    rw [gateSequence, parsed, thenIfOk_ok]
    exact (execGate_parsed hp).trans (gateChecks_eq_sequence (p := (s.setCls .noClass).setFooter _ _) payload rfl)

/-! ### The use of a payload -/

section
variable {s : State} {p : Proven}

/-- The use of a payload that goes on is of a covered container, and changes nothing. -/
theorem hostUsePayload_next {t : State} (h : hostUsePayload p s = .next t) : p ∈ s.proven ∧ t = s := by
  unfold hostUsePayload at h
  split at h
  · rename_i hp
    cases h
    exact ⟨hp.1, rfl⟩
  · cases h

theorem hostUsePayload_notProven (h : p ∉ s.proven) : hostUsePayload p s = .fault .payloadNotProven :=
  if_neg fun hp => h hp.1

theorem hostUsePayload_covered (h : p ∈ s.proven) (hd : s.dstBusyOver p.region = false) :
    hostUsePayload p s = .next s :=
  if_pos ⟨h, hd⟩

/-- Only a BUILD or a SEAL in flight makes a region unspecified, and only one whose DST lies over it (R101). -/
theorem dstBusyOver_eq_false {r : Region}
    (h : s.phase = .idle ∨ writesDst (decodeWord s.cmdword) = false ∨ r.overlaps s.dst = false) :
    s.dstBusyOver r = false := by
  cases hp : s.phase with
  | idle => exact dstBusyOver_idle hp r
  | busy =>
    simp only [State.dstBusyOver, inFlight_busy hp, Bool.and_eq_false_iff]
    exact h.resolve_left (by simp [hp])

end

/-- Settles O56: a use that goes on is of a covered container (`hostUsePayload_next`), and those pass the gate by the
invariant. -/
theorem payloadUseIsGuarded : Obligations.PayloadUseIsGuarded := fun s rest p =>
  ⟨fun _ hs h =>
    have ⟨hp, ht⟩ := hostUsePayload_next (s := s.setAgenda rest) h
    ⟨hs.covered p hp, ht⟩,
  hostUsePayload_notProven (s := s.setAgenda rest)⟩

/-! ### What uncovers a container -/

section
variable {s : State} {p : Proven}

/-- A write uncovers only what shares a byte with it (R185). -/
theorem noteWritten_uncovers {r : Region} (hp : p ∈ s.proven) (hn : p ∉ (s.noteWritten r).proven) :
    p.region.overlaps r = true := by
  by_contra h
  exact hn (List.mem_filter.2 ⟨hp, by simpa using h⟩)

/-- A completion uncovers only what a BUILD or SEAL that gave OK wrote into (R185, R232). -/
theorem exec_uncovers {i : Instr} {u : State} (h : exec i s = .next u) (hp : p ∈ s.proven)
    (hn : p ∉ (noteCompletion i u).proven) :
    writesDst i = true ∧ u.err = .ok ∧ p.region.overlaps s.dst = true := by
  obtain ⟨e, v, rfl, hr⟩ := exec_next h
  have hp : p ∈ (v.complete e).proven := hr.keeps.proven ▸ hp
  have hdst : (v.complete e).dst = s.dst := by
    obtain ⟨-, -, hdst⟩ := hr.regions
    exact congrArg (fun a : Word => Region.mk a.toNat 20) hdst
  rw [noteCompletion_proven] at hn
  split at hn
  · exact absurd (List.mem_insert_of_mem hp) hn
  · split at hn
    · rename_i hw
      exact ⟨hw.1, hw.2, hdst ▸ noteWritten_uncovers hp hn⟩
    · exact absurd hp hn

/-- A reset uncovers only what the BUILD or SEAL it aborts was writing into (R261). -/
theorem abortWrites_uncovers (hp : p ∈ s.proven) (hn : p ∉ (abortWrites s).proven) :
    s.phase = .busy ∧ writesDst (decodeWord s.cmdword) = true ∧ p.region.overlaps s.dst = true := by
  by_cases h : s.phase = .idle ∨ writesDst (decodeWord s.cmdword) = false
  · rw [abortWrites_of_no_write h] at hn
    exact absurd hp hn
  · obtain ⟨hidle, hw⟩ := not_or.1 h
    have hb : s.phase = .busy := by cases hph : s.phase with
      | idle => exact absurd hph hidle
      | busy => rfl
    have hw : writesDst (decodeWord s.cmdword) = true := by simpa using hw
    simp only [abortWrites, inFlight_busy hb, hw, if_true] at hn
    exact ⟨hb, hw, noteWritten_uncovers hp hn⟩

/-- A region that shares a byte with a single byte contains it. -/
theorem Region.contains_of_overlaps_byte {r : Region} {a : Nat} (h : r.overlaps ⟨a, 1⟩ = true) :
    r.contains a = true := by
  obtain ⟨x, hx, ha⟩ := Region.overlaps_iff.1 h
  obtain rfl : x = a := by have := Region.contains_iff.1 ha; dsimp only at this; omega
  exact hx

end

/-! ### What covers a container -/

/-- The unit's turn, also that of the empty agenda, is its step on the rest of the agenda (log entry 3). -/
theorem step_unitTurn {s t : State} (ha : s.agenda = [] ∨ ∃ rest, s.agenda = .unit :: rest) (h : step s = .next t) :
    ∃ rest, unitStep (s.setAgenda rest) = .next t := by
  rcases ha with ha | ⟨rest, ha⟩
  · refine ⟨[], ?_⟩
    rw [← step_setAgenda_nil, ← ha]
    exact h
  · rw [step_cons ha] at h
    exact ⟨rest, h⟩

@[simp] theorem noteCompletion_cls (i : Instr) (t : State) : (noteCompletion i t).cls = t.cls := by
  rw [noteCompletion_eq]

/-- A GATE that completes with OK covers its container, with the class it gave, and leaves the unit idle (R60, R184). -/
theorem unitStep_gate_covers {s t : State} (hb : s.phase = .busy) (hg : decodeWord s.cmdword = .gate)
    (h : unitStep s = .next t) (he : t.err = .ok) :
    ⟨s.srcAddr, s.srcLen, t.cls⟩ ∈ t.proven ∧ t.phase = .idle := by
  rcases unitStep_next h with ⟨hi, -⟩ | ⟨-, -, u, hu, rfl⟩
  · exact nomatch hi.symm.trans hb
  · obtain ⟨e, v, rfl, hr⟩ := exec_next hu
    obtain ⟨hsrc, hlen, -⟩ := hr.regions
    rw [noteCompletion_err] at he
    rw [noteCompletion_proven, if_pos ⟨hg, he⟩, noteCompletion_phase, noteCompletion_cls, ← hsrc, ← hlen]
    exact ⟨List.mem_insert_self, rfl⟩

/-- Settles O57: `unitStep_gate_covers` at a completion; what uncovers a container, for each kind of step of `step_cases`;
and a covered container may be used (`hostUsePayload_covered`) unless a BUILD or SEAL is in flight over it. -/
theorem passingGateAllowsUse : Obligations.PassingGateAllowsUse := by
  refine ⟨fun s t es hb hg ha h he => ?_, fun s t p hp h hn => ?_,
    fun s es p hp h => hostUsePayload_covered (s := s.setAgenda es) hp (dstBusyOver_eq_false h)⟩
  · obtain ⟨rest, hu⟩ := step_unitTurn ha h
    obtain ⟨hp, hidle⟩ := unitStep_gate_covers (s := s.setAgenda rest) hb hg hu he
    exact ⟨hp, hostUsePayload_covered (s := t.setAgenda es) hp (dstBusyOver_eq_false (.inl hidle))⟩
  · rcases step_cases h with ⟨-, ⟨-, rfl⟩ | ⟨rest, -, rfl⟩⟩ | ⟨hb, -, rest, u, ha, hu, rfl⟩ | ⟨r, v, rest, -, rfl⟩ |
      ⟨e, rest, es, q, d, -, -, -, -, rfl⟩ | ⟨a, b, rest, ha, -, -, -, rfl⟩ | ⟨rest, ha, rfl⟩
    · exact absurd hp hn
    · exact absurd hp hn
    · obtain ⟨hw, he, ho⟩ := exec_uncovers (s := s.setAgenda rest) hu hp hn
      exact .inr ⟨hb, hw, ho, .inl ⟨ha.imp (·.1) (⟨rest, ·⟩), (noteCompletion_err _ _).trans he⟩⟩
    · obtain ⟨-, -, -, -, -, hk, -⟩ := writeReg_keeps r v (s.setAgenda rest)
      exact absurd hp (hk ▸ hn)
    · exact absurd hp hn
    · exact .inl ⟨a, b, rest, ha, Region.contains_of_overlaps_byte (noteWritten_uncovers hp hn)⟩
    · obtain ⟨hb, hw, ho⟩ := abortWrites_uncovers (s := s.setAgenda rest) hp hn
      exact .inr ⟨hb, hw, ho, .inr ⟨rest, ha⟩⟩

end Sys2Proof.Machine
end

section
/-! PROOF. The encoder (R200, R201): SEAL outcome by outcome, and a container that SEAL closed at GATE: the parse finds the
footer SEAL wrote, the size and the checksum are those of the payload in front of it, and the type decides the rest. -/

namespace Sys2Proof.Machine

/-! ### SEAL -/

/-- Settles O15: `execSeal_range`, and in range the CRC of SRC as it was is written with one write of the footer's 20 bytes
(`execSeal_ok`). -/
theorem sealResult : Obligations.SealResult := by
  refine ⟨by decide, ?_⟩
  rintro s _ _ _ _ rfl rfl rfl rfl
  exact ⟨fun h => execSeal_range (h.imp not_le.2 not_le.2), fun hs hd => ⟨_, execSeal_ok hs hd, footerIsAt_memWrite ..,
    fun _ hx => read_memWrite_outside hx⟩⟩

/-- After a SEAL in range, CRC_OUT is the CRC32 of SRC as it was, DST holds the bytes of the footer with that CRC32, and
every other byte is as it was. -/
theorem execSeal_sealed {s t : State} (hs : s.src.inRange) (hd : s.dst.inRange) (h : execSeal s = .next t) :
    t.crcOut = srcCrc s s.srcLen.toNat ∧
      (∀ i, (hi : i < 20) → Memory.read t.mem (s.dstAddr.toNat + i) =
        (footerBytes s.fOsize s.srcLen t.crcOut s.fType)[i]) ∧
      sameBytesOutside t.mem s.mem s.dstAddr.toNat 20 := by
  cases h.symm.trans (execSeal_ok hs hd)
  rw [State.complete_mem, sealWith_mem]
  exact ⟨rfl, fun i hi => read_memWrite_inside i (by simpa using hi), fun _ hx => read_memWrite_outside hx⟩

/-! ### GATE past its checksum step -/

/-- GATE at its type step: CLASS = NONE, the footer in the registers, and PAY_LEN and CRC_OUT equal to the length and the
checksum that it gives (R182 step 5). -/
def State.atTypeStep (s : State) (f : Footer) : State := ((s.setCls .noClass).setFooter f f.csize).setCrcOut f.crc

/-- A container with a footer of its own payload's length and checksum brings GATE to its type step. -/
theorem execGate_dispatch {s : State} (hr : s.src.inRange) (h20 : 20 ≤ s.srcLen.toNat)
    (hm : memRead s.mem (s.srcAddr.toNat + s.srcLen.toNat - 4) 4 = magicBytes) {f : Footer}
    (hf : footerAt s.mem (s.srcAddr.toNat + s.srcLen.toNat - 20) = f) (hsize : f.csize = s.srcLen - 20)
    (hc : srcCrc s (s.srcLen.toNat - 20) = f.crc) :
    execGate s = dispatchType (s.atTypeStep f) := by
  rw [← toNat_sub_footerLen _ h20] at hc
  rw [execGate_parsed (parseFooter_ok hr hm h20), hf, State.atTypeStep, ← hc, hsize]
  exact gateChecks_dispatch hsize.symm hc

/-- The type step ends the command and writes CLASS at most. -/
theorem dispatchType_completes (s : State) : ∃ c e, dispatchType s = .next ((s.setCls c).complete e) := by
  rcases dispatchType_cases s with ⟨h, -⟩ | ⟨h, -⟩ | ⟨h, -⟩ | ⟨h, -⟩
  · exact ⟨.stored, .ok, h⟩
  · exact ⟨s.cls, .storedSize, h⟩
  · exact ⟨.lz4, .ok, h⟩
  · exact ⟨s.cls, .unknownType, h⟩

/-- Two descriptions of the type step give one code and one class. -/
theorem dispatchType_agrees {s v w : State} (hv : dispatchType s = .next v) (hw : dispatchType s = .next w) :
    v.err = w.err ∧ v.cls = w.cls := by
  cases hv.symm.trans hw; exact ⟨rfl, rfl⟩

/-! ### A sealed container at GATE -/

/-- With DST right behind SRC, GATE on the whole container comes to its type step with the footer that SEAL wrote: the
payload is not in DST, so its CRC32 is still the one SEAL took (R201). -/
theorem execGate_sealed {s t u : State} (hsd : s.dstAddr.toNat = s.srcAddr.toNat + s.srcLen.toNat)
    (hd : s.dstAddr.toNat + 20 ≤ 2 ^ 32) (h : execSeal s = .next t)
    (same : sameBytes u.mem t.mem s.srcAddr.toNat (s.srcLen.toNat + 20)) (ha : u.srcAddr = s.srcAddr)
    (hl : u.srcLen.toNat = s.srcLen.toNat + 20) :
    execGate u = dispatchType (u.atTypeStep ⟨s.fOsize, s.srcLen, t.crcOut, s.fType⟩) := by
  have hs : s.srcAddr.toNat + s.srcLen.toNat ≤ 2 ^ 32 := by omega
  obtain ⟨crc, footer, outside⟩ := execSeal_sealed hs hd h
  have bytes : ∀ i, (hi : i < 20) → Memory.read u.mem (s.dstAddr.toNat + i) =
      (footerBytes s.fOsize s.srcLen t.crcOut s.fType)[i] := fun i hi =>
    (same _ (by omega) (by omega)).trans (footer i hi)
  have payload : srcCrc u s.srcLen.toNat = t.crcOut := by
    rw [crc]
    refine srcCrc_congr ha fun x h1 h2 => ?_
    rw [ha] at h1 h2
    exact (same x h1 (by omega)).trans (outside x (.inl (by omega)))
  have hend : u.srcAddr.toNat + u.srcLen.toNat = s.dstAddr.toNat + 20 := by rw [ha]; omega
  have hlen : s.srcLen = u.srcLen - 20 := BitVec.eq_of_toNat_eq (by rw [toNat_sub_footerLen _ (by omega)]; omega)
  refine execGate_dispatch (s := u) (hend.trans_le hd) (by omega) ?_ ?_ hlen (by rw [hl]; exact payload)
  · rw [hend]; exact magic_of_bytes bytes
  · rw [hend]; exact footerAt_of_bytes bytes

/-- Settles O24: `execGate_sealed` leaves the type step, which keeps the footer registers, PAY_LEN and CRC_OUT, and whose
outcomes are the lemmas of `dispatchType`. -/
theorem sealedContainerPassesGate : Obligations.SealedContainerPassesGate := by
  intro s t u hsd hd h same ha hl
  obtain ⟨c, e, hv⟩ := dispatchType_completes (u.atTypeStep ⟨s.fOsize, s.srcLen, t.crcOut, s.fType⟩)
  exact ⟨_, (execGate_sealed hsd hd h same ha hl).trans hv, rfl, rfl, rfl, rfl, rfl, rfl,
    fun ht ho => dispatchType_agrees hv (dispatchType_stored ht ho),
    fun ht ho => dispatchType_agrees hv (dispatchType_storedSize ht ho),
    fun ht => dispatchType_agrees hv (dispatchType_lz4 ht), fun ht => dispatchType_agrees hv (dispatchType_unknown ht)⟩

end Sys2Proof.Machine
end

section
/-! PROOF. The control commands (R210, R211): NOP and the three illegal commands complete at once, with one code each. -/

namespace Sys2Proof.Machine

/-! ### The control commands as completions -/

section
variable (s : State)

theorem exec_nop : exec .nop s = .next (s.complete .ok) := rfl

theorem exec_illegalAB (o : BitVec 1) : exec (.illegalAB o) s = .next (s.complete .illegal) := rfl

theorem exec_illegalCF (o : BitVec 2) : exec (.illegalCF o) s = .next (s.complete .illegal) := rfl

theorem exec_illegalZ (z : BitVec 28) (op : BitVec 4) : exec (.illegalZ z op) s = .next (s.complete .illegal) := rfl

end

/-! ### Their results -/

/-- Settles O5: NOP is the completion with OK (`exec_nop`), and STATUS is `statusWord_complete`. -/
theorem nopResult : Obligations.NopResult := by
  obtain ⟨nopWord, -⟩ := listedWordsDecode
  exact ⟨nopWord, fun s => ⟨s.complete .ok, exec_nop s, rfl, statusWord_complete .ok⟩⟩

/-- Settles O6: each illegal command is the completion with ILLEGAL, whatever its free bits, and STATUS is
`statusWord_complete`. -/
theorem illegalResult : Obligations.IllegalResult := by
  intro s o q z op
  exact ⟨s.complete .illegal, rfl, exec_illegalAB s o, exec_illegalCF s q, exec_illegalZ s z op,
    statusWord_complete .illegal⟩

end Sys2Proof.Machine
end

section
/-! PROOF. Errors and the interrupt: an idle unit's turn (R243), the interrupt output as a level (R236), and each outcome of
each command reached from a state that is written out (R231). -/

namespace Sys2Proof.Machine

/-! ### The unit's turn while idle -/

/-- Settles O40: `unitStep_idle`, from the empty agenda and with the turn taken off the agenda. -/
theorem idleUnitKeepsItsState : Obligations.IdleUnitKeepsItsState := fun s rest hs =>
  ⟨unitStep_idle (s := s.setAgenda []) hs, unitStep_idle (s := s.setAgenda rest) hs⟩

/-! ### The interrupt output -/

section
variable {s t : State}

/-- CTRL reads 1 exactly when interrupts are enabled (R37). -/
theorem ctrlWord_eq_one_iff : ctrlWord s = 1 ↔ s.ie = true := by
  rw [ctrlWord_eq_ite]
  cases s.ie <;> decide

theorem irq_iff : irq s = true ↔ s.ie = true ∧ s.done = true := by rw [irq, Bool.and_eq_true]

theorem irq_of_masked (h : s.ie = false) : irq s = false := by rw [irq, h, Bool.false_and]

theorem irq_of_not_done (h : s.done = false) : irq s = false := by rw [irq, h, Bool.and_false]

/-- No command writes CTRL: it is in no row of R62. -/
theorem exec_ie {i : Instr} (h : exec i s = .next t) : t.ie = s.ie := by
  obtain ⟨regs, -⟩ := commandsWriteOnlyTheirRegisters i s t h
  have ctrl : ctrlWord t = ctrlWord s := regs .ctrl (by decide) fun hr => absurd (writtenRegs_subset _ _ hr) (by decide)
  rw [Bool.eq_iff_iff, ← ctrlWord_eq_one_iff, ← ctrlWord_eq_one_iff, ctrl]

/-- Every command leaves DONE = 1, so the level is the enable bit. -/
theorem exec_irq {i : Instr} (h : exec i s = .next t) : irq t = s.ie := by
  obtain ⟨e, u, rfl, -⟩ := exec_next h
  rw [irq, State.complete_done, Bool.and_true, exec_ie h]

end

/-- Settles O46: an issue, a write of STATUS with bit 1 = 1 and a reset clear DONE; a write of CTRL with bit 0 = 0 clears the
enable bit. -/
theorem irqIsALevel : Obligations.IrqIsALevel := by
  refine fun s => ⟨?_, fun i t h => exec_irq h, fun rest v t =>
    ⟨fun hs h => ?_, fun hv h => ?_, fun hv h => ?_, fun h => ?_⟩⟩
  · obtain ⟨-, hdone, -⟩ := statusWord_low s
    rw [readReg, readReg, hdone, ctrlWord_eq_one_iff, irq_iff]
  · cases (step_wr s rest .cmd v).symm.trans h
    exact irq_of_not_done (by simp [writeReg_done, hs])
  · cases (step_wr s rest .status v).symm.trans h
    exact irq_of_not_done (by simp [writeReg_done, hv])
  · cases (step_wr s rest .ctrl v).symm.trans h
    exact ⟨irq_of_masked hv, rfl⟩
  · cases h
    exact irq_of_not_done rfl

/-! ### States that reach the outcomes -/

/-- The command can complete with this code (R231). -/
def CanRaise (i : Instr) (e : ErrCode) : Prop := ∃ s t, exec i s = .next t ∧ t.err = e

theorem CanRaise.of_completion {i : Instr} {e : ErrCode} {s u : State} (h : exec i s = .next (u.complete e)) :
    CanRaise i e := ⟨s, _, h, rfl⟩

/-- SRC ends one byte past the top of memory. -/
def State.srcPastTop : State := { State.reset with srcAddr := 0xFFFFFFFF, srcLen := 2 }

/-- DST starts at the last byte of memory. -/
def State.dstPastTop : State := { State.reset with dstAddr := 0xFFFFFFFF }

/-- SRC is the first `n` bytes of this memory. -/
def State.srcAtZero (m : Memory) (n : Word) : State := { State.reset with mem := m, srcLen := n }

/-- The footer of these fields at address 0, and nothing else written: a container with an empty payload. -/
def footerAtZero (f : Footer) : Memory := memWrite [] 0 (footerBytes f.osize f.csize f.crc f.typ)

theorem srcPastTop_not_inRange : ¬ State.srcPastTop.src.inRange := by decide

theorem dstPastTop_not_inRange : ¬ State.dstPastTop.dst.inRange := by decide

/-- The CRC32 of the empty sequence is 0 (R161). -/
theorem srcCrc_zero (s : State) : srcCrc s 0 = 0 :=
  have ⟨empty, _⟩ := crcKnownValues
  empty

section
variable (f : Footer)

theorem memRead_footerAtZero : memRead (footerAtZero f) 16 4 = magicBytes :=
  magic_of_bytes (a := 0) fun i hi => read_memWrite_inside i (by simpa using hi)

theorem footerAt_footerAtZero : footerAt (footerAtZero f) 0 = f := footerAt_memWrite ..

end

/-! ### The outcomes of a parse -/

theorem parseFooter_srcPastTop :
    parseFooter State.srcPastTop.mem State.srcPastTop.srcAddr.toNat State.srcPastTop.srcLen.toNat = .error .range :=
  parseFooter_range srcPastTop_not_inRange

/-- After reset SRC is empty, so it does not hold the magic. -/
theorem parseFooter_reset :
    parseFooter State.reset.mem State.reset.srcAddr.toNat State.reset.srcLen.toNat = .error .format :=
  parseFooter_tooShortForMagic (by decide) (by decide)

/-- The magic alone is too short for a footer. -/
theorem parseFooter_magicOnly : let s := State.srcAtZero (memWrite [] 0 magicBytes) 4
    parseFooter s.mem s.srcAddr.toNat s.srcLen.toNat = .error .short :=
  parseFooter_short (by decide) (by decide) (memRead_memWrite [] 0 magicBytes) (by decide)

/-- Twenty bytes that end with the magic are a footer. -/
theorem parseFooter_srcAtZero {m : Memory} {f : Footer} (magic : memRead m 16 4 = magicBytes)
    (footer : footerAt m 0 = f) : let s := State.srcAtZero m 20
    parseFooter s.mem s.srcAddr.toNat s.srcLen.toNat = .ok f :=
  footer ▸ parseFooter_ok (show inRange 0 20 by decide) magic (le_refl 20)

/-! ### The codes of each command -/

theorem parse_canRaise {e : ErrCode} (he : e ∈ outcomes .parse) : CanRaise .parse e := by
  cases e with
  | ok =>
    exact .of_completion (execParse_ok (parseFooter_srcAtZero (memRead_footerAtZero ⟨0, 0, 0, 0⟩)
      (footerAt_footerAtZero _)))
  | format => exact .of_completion (execParse_error parseFooter_reset)
  | short => exact .of_completion (execParse_error parseFooter_magicOnly)
  | range => exact .of_completion (execParse_error parseFooter_srcPastTop)
  | _ => exact absurd he (by decide)

theorem build_canRaise {e : ErrCode} (he : e ∈ outcomes .build) : CanRaise .build e := by
  cases e with
  | ok => exact .of_completion (execBuild_ok (s := State.reset) (by decide))
  | range => exact .of_completion (execBuild_range dstPastTop_not_inRange)
  | _ => exact absurd he (by decide)

theorem crc_canRaise {e : ErrCode} (he : e ∈ outcomes .crc) : CanRaise .crc e := by
  cases e with
  | ok => exact .of_completion (execCrc_ok (s := State.reset) (by decide))
  | range => exact .of_completion (execCrc_range srcPastTop_not_inRange)
  | _ => exact absurd he (by decide)

theorem vsize_canRaise {e : ErrCode} (he : e ∈ outcomes .vsize) : CanRaise .vsize e := by
  cases e with
  | ok => exact .of_completion (execVsize_ok (s := State.reset) rfl)
  | size => exact .of_completion (execVsize_size (s := { State.reset with fCsize := 1 }) (by decide))
  | _ => exact absurd he (by decide)

theorem vcrc_canRaise {e : ErrCode} (he : e ∈ outcomes .vcrc) : CanRaise .vcrc e := by
  cases e with
  | ok => exact .of_completion (execVcrc_ok (s := State.reset) (by decide) (srcCrc_zero _))
  | checksum =>
    exact .of_completion (execVcrc_checksum (s := { State.reset with fCrc := 1 }) (by decide)
      ((srcCrc_zero _).trans_ne (by decide)))
  | range => exact .of_completion (execVcrc_range srcPastTop_not_inRange)
  | _ => exact absurd he (by decide)

theorem typechk_canRaise {e : ErrCode} (he : e ∈ outcomes .typechk) : CanRaise .typechk e := by
  have dispatch (s : State) : exec .typechk s = dispatchType (s.setCls .noClass) := rfl
  cases e with
  | ok => exact .of_completion ((dispatch .reset).trans (dispatchType_stored rfl rfl))
  | storedSize =>
    exact .of_completion ((dispatch { State.reset with fOsize := 1 }).trans (dispatchType_storedSize rfl (by decide)))
  | unknownType =>
    exact .of_completion ((dispatch { State.reset with fType := 3 }).trans (dispatchType_unknown (by decide)))
  | _ => exact absurd he (by decide)

theorem vdec_canRaise {e : ErrCode} (he : e ∈ outcomes .vdec) : CanRaise .vdec e := by
  cases e with
  | ok => exact .of_completion (execVdec_ok (s := State.reset) (by decide) rfl)
  | decodedSize => exact .of_completion (execVdec_decodedSize (s := { State.reset with fOsize := 1 }) (.inr (by decide)))
  | _ => exact absurd he (by decide)

/-- On a footer alone, a container with an empty payload, GATE comes to its checks with the footer in the registers. -/
theorem exec_gate_footerOnly (f : Footer) : exec .gate (.srcAtZero (footerAtZero f) 20) =
    gateChecks (((State.srcAtZero (footerAtZero f) 20).setCls .noClass).setFooter f 0) := by
  rw [exec, execGate_parsed (parseFooter_srcAtZero (memRead_footerAtZero f) (footerAt_footerAtZero f)),
    show (State.srcAtZero (footerAtZero f) 20).srcLen - 20 = 0 from BitVec.sub_self 20]

/-- Past the parse the states are footers alone; a payload length and a checksum of 0 in the footer are right for the empty
payload, and bring GATE to its type step. -/
theorem gate_canRaise {e : ErrCode} (he : e ∈ outcomes .gate) : CanRaise .gate e := by
  have typeStep (osize typ : Word) :=
    (exec_gate_footerOnly ⟨osize, 0, 0, typ⟩).trans (gateChecks_dispatch rfl (srcCrc_zero _))
  cases e with
  | ok => exact .of_completion ((typeStep 0 0).trans (dispatchType_stored rfl rfl))
  | format => exact .of_completion (execGate_error parseFooter_reset)
  | size => exact .of_completion ((exec_gate_footerOnly ⟨0, 1, 0, 0⟩).trans (gateChecks_size (by decide)))
  | checksum =>
    exact .of_completion ((exec_gate_footerOnly ⟨0, 0, 1, 0⟩).trans (gateChecks_checksum rfl
      ((srcCrc_zero _).trans_ne (by decide))))
  | storedSize => exact .of_completion ((typeStep 1 0).trans (dispatchType_storedSize rfl (by decide)))
  | unknownType => exact .of_completion ((typeStep 0 3).trans (dispatchType_unknown (by decide)))
  | short => exact .of_completion (execGate_error parseFooter_magicOnly)
  | range => exact .of_completion (execGate_error parseFooter_srcPastTop)
  | _ => exact absurd he (by decide)

theorem sealFooter_canRaise {e : ErrCode} (he : e ∈ outcomes .sealFooter) : CanRaise .sealFooter e := by
  cases e with
  | ok => exact .of_completion (execSeal_ok (s := State.reset) (by decide) (by decide))
  | range => exact .of_completion (execSeal_range (.inl srcPastTop_not_inRange))
  | _ => exact absurd he (by decide)

/-- Settles O17: NOP and the illegal commands have one code each, and every other command a lemma with a state for each of
its codes. -/
theorem everyListedCodeIsRaised : Obligations.EveryListedCodeIsRaised := by
  intro i e he
  cases i with
  | nop => exact List.mem_singleton.1 he ▸ CanRaise.of_completion (exec_nop State.reset)
  | parse => exact parse_canRaise he
  | build => exact build_canRaise he
  | crc => exact crc_canRaise he
  | vsize => exact vsize_canRaise he
  | vcrc => exact vcrc_canRaise he
  | typechk => exact typechk_canRaise he
  | vdec => exact vdec_canRaise he
  | gate => exact gate_canRaise he
  | sealFooter => exact sealFooter_canRaise he
  | illegalAB o => exact List.mem_singleton.1 he ▸ CanRaise.of_completion (exec_illegalAB State.reset o)
  | illegalCF o => exact List.mem_singleton.1 he ▸ CanRaise.of_completion (exec_illegalCF State.reset o)
  | illegalZ z op => exact List.mem_singleton.1 he ▸ CanRaise.of_completion (exec_illegalZ State.reset z op)

end Sys2Proof.Machine
end

section
/-! PROOF. Reset (R260 to R262): what it leaves in the registers and in buffer memory. Progress (R264): each step of an
agenda without a reset brings the turn of the unit nearer, and its turn completes the command in flight. -/

namespace Sys2Proof.Machine

/-! ### The reset step -/

theorem resetStep_mem (s : State) : (resetStep s).mem = (abortWrites s).mem := rfl

/-- A reset leaves every byte outside DST as it was: the bytes it draws lie in DST (R261, R262). -/
theorem abortWrites_sameBytesOutside (s : State) : sameBytesOutside (abortWrites s).mem s.mem s.dstAddr.toNat 20 := by
  intro x hx
  unfold abortWrites
  split
  · rfl
  · split
    · exact read_drawRegion_outside hx
    · rfl

/-- Settles O50: the registers read as right after reset (`resetStep_readReg`, O51), and buffer memory is what
`abortWrites` leaves. -/
theorem resetStepResult : Obligations.ResetStepResult := by
  intro s rest
  obtain ⟨zero, magic, -⟩ := resetValues
  refine ⟨resetStep (s.setAgenda rest), rfl, fun r hr => ?_, ?_, rfl, rfl, rfl, fun h => ?_, ?_⟩
  · rw [resetStep_readReg, zero r hr]
  · rw [resetStep_readReg, magic]
  · rw [resetStep_mem, abortWrites_of_no_write (s := s.setAgenda rest) h, State.setAgenda_mem]
  · exact abortWrites_sameBytesOutside (s.setAgenda rest)

/-! ### The steps of a busy unit -/

section
variable {s t : State}

/-- The turn of a busy unit completes the command in flight, unless it is refused (R60). -/
theorem unitStep_completes (hb : s.phase = .busy) (h : unitStep s = .next t) : t.phase = .idle ∧ t.done = true := by
  rcases unitStep_next h with ⟨hi, -⟩ | ⟨-, -, u, hu, rfl⟩
  · exact nomatch hi.symm.trans hb
  · obtain ⟨e, v, rfl, -⟩ := exec_next hu
    exact ⟨noteCompletion_phase _ _, noteCompletion_done _ _⟩

/-- A host read of memory changes what the host knows and the count of draws only. -/
theorem hostMemRead_keeps {a : Word} (h : hostMemRead a s = .next t) : t.phase = s.phase ∧ t.agenda = s.agenda := by
  unfold hostMemRead at h
  split at h
  · cases h
    exact ⟨rfl, rfl⟩
  · split at h <;> cases h
    exact ⟨rfl, rfl⟩

/-- An access of the host or of another agent neither ends the command in flight nor adds to the agenda. -/
theorem eventStep_keepsBusy {e : Event} (hu : e ≠ .unit) (hw : e ≠ .wait) (hr : e ≠ .reset) (hb : s.phase = .busy)
    (h : eventStep e s = .next t) : t.phase = .busy ∧ t.agenda = s.agenda := by
  cases e with
  | regRead off bytes =>
    obtain ⟨r, -, rfl⟩ := busAccess_next h
    exact ⟨hb, rfl⟩
  | regWrite off bytes v =>
    obtain ⟨r, -, rfl⟩ := hostRegWrite_next h
    exact ⟨by rw [writeReg_phase, hb, ite_self], writeReg_agenda r v s⟩
  | memRead a =>
    obtain ⟨hp, ha⟩ := hostMemRead_keeps h
    exact ⟨hp.trans hb, ha⟩
  | memWrite a b =>
    obtain ⟨-, -, -, rfl⟩ := hostMemWrite_next h
    exact ⟨hb, rfl⟩
  | usePayload p =>
    obtain ⟨-, rfl⟩ := hostUsePayload_next h
    exact ⟨hb, rfl⟩
  | unit => exact absurd rfl hu
  | wait => exact absurd rfl hw
  | reset => exact absurd rfl hr

end

/-! ### Progress -/

/-- A run has completed in one step more if the first step stops or completes, or the run from its state has completed. -/
theorem completesBy_of_step {s : State} {k : Nat}
    (h : ∀ t, step s = .next t → (t.phase = .idle ∧ t.done = true) ∨ completesBy t k) : completesBy s (k + 1) := by
  have one_le : 1 ≤ k + 1 := Nat.le_add_left 1 k
  cases hs : step s with
  | next t =>
    rcases h t hs with ht | ⟨n, hn, hrun⟩
    · exact ⟨1, one_le, .inl ⟨t, run_of_next (M := core) 0 hs, ht⟩⟩
    · rw [← run_of_next (M := core) n hs] at hrun
      exact ⟨n + 1, Nat.succ_le_succ hn, hrun⟩
  | fault r => exact ⟨1, one_le, .inr (.inl ⟨r, run_of_fault (M := core) 0 hs⟩)⟩
  | refused r => exact ⟨1, one_le, .inr (.inr ⟨r, run_of_refused (M := core) 0 hs⟩)⟩

/-- With the unit's turn next, one step is enough, and so is any larger number. -/
theorem completesBy_of_unitTurn {s : State} (k : Nat) (hb : s.phase = .busy)
    (ha : s.agenda = [] ∨ ∃ rest, s.agenda = .unit :: rest) : completesBy s (k + 1) :=
  completesBy_of_step fun _ h =>
    have ⟨rest, hu⟩ := step_unitTurn ha h
    .inl (unitStep_completes (s := s.setAgenda rest) hb hu)

/-- Settles O52, by induction on the agenda: the unit has its turn next, or after a poll by `wait`, or the step takes one
entry off the agenda and leaves the command in flight (`eventStep_keepsBusy`). -/
theorem commandInFlightCompletes : Obligations.CommandInFlightCompletes := by
  intro s hb hn
  induction ha : s.agenda generalizing s with
  | nil => exact completesBy_of_unitTurn _ hb (.inl ha)
  | cons e rest ih =>
    rw [ha] at hn
    obtain ⟨hreset, hrest⟩ := not_or.1 (mt List.mem_cons.2 hn)
    by_cases hunit : e = .unit
    · exact completesBy_of_unitTurn _ hb (.inr ⟨rest, hunit ▸ ha⟩)
    · refine completesBy_of_step fun t h => .inr ?_
      rw [step_cons ha] at h
      by_cases hwait : e = .wait
      · subst hwait
        cases (hostWait_busy (s := s.setAgenda rest) hb).symm.trans h
        exact completesBy_of_unitTurn _ hb (.inr ⟨_, rfl⟩)
      · obtain ⟨htb, hta⟩ := eventStep_keepsBusy (s := s.setAgenda rest) hunit hwait (Ne.symm hreset) hb h
        have ht : t.agenda = rest := hta
        exact ih t htb (ht ▸ hrest) ht

end Sys2Proof.Machine
end
